-- ==== Sys2Proof/Word.lean ====
section
/-! DEFINITION. The two word types of the block. Everything the block sends is one 16-bit frame (rule R80), everything it
counts is a 12-bit unsigned register (rules R28, R30). -/

namespace Sys2Proof

/-- A control frame: bit 15 is the most significant bit and the first on the wire (rules R10, R51, R80). -/
abbrev Frame := BitVec 16

/-- A 12-bit working register: `S.currentValue`, `S.stepIndex`, the data field of a frame (rules R28, R30, R85). -/
abbrev Value := BitVec 12

end Sys2Proof
end

