-- ==== Sys2Proof/Config.lean ====
section
/-! DEFINITION. The build parameters of rule R6 (constants of one instance of the block that no operation changes) and the
values the spec leaves free. A build parameter is a field of `Build`, which `State` carries, so that every statement over
all states is a statement over all builds. A free value is an opaque constant: nothing can evaluate it. -/

namespace Sys2Proof

/-- `TRIGGER_POLARITY` (rules R6, R33): which electrical level of the `trig` pin counts as active. -/
inductive TriggerPolarity where
  | rising
  | falling
  deriving DecidableEq, Repr

/-- `POLL_ORDER` (rules R6, R150): whether an armed single-step poll moves the counter before or after it writes. -/
inductive PollOrder where
  | advanceThenEmit
  | emitThenAdvance
  deriving DecidableEq, Repr

/-- The build parameters of rule R6 that some rule reads. -/
structure Build where
  /-- `TRIGGER_POLARITY`. -/
  triggerPolarity : TriggerPolarity
  /-- `POLL_ORDER`. -/
  pollOrder : PollOrder
  /-- `W_VALUE`, the width of a value operand; rule R6 admits integers of 13 and more. -/
  wValue : Nat
  /-- `SHDN_CHANNEL`, the channel bit of the shutdown frame of a dual-channel device (rules R25, R89). -/
  shdnChannel : Bool
  /-- `SHDN_DATA`, bits 11..0 of the shutdown frame (rule R89). -/
  shdnData : BitVec 12
  deriving DecidableEq, Repr

/-- The defaults of rule R6's table. Only `State.reset` uses them; no statement rests on them. -/
def Build.standard : Build :=
  { triggerPolarity := .rising, pollOrder := .advanceThenEmit, wValue := 16, shdnChannel := false, shdnData := 0 }

namespace Config

/-- The level of the trigger input at power-on: "its value at power-on is unspecified: a model draws it" (rule R33, U12).
A free value (log entry 1). -/
opaque trigAtPowerOn : Bool

/-- One less than `T_LATCH_MIN`, in some unit of time: OPEN in the spec (N11, U16; log entry 2). -/
opaque tLatchMinLessOne : Nat

/-- One less than `T_FRAME`, in the same unit: OPEN in the spec (N10, U16; log entry 2). -/
opaque tFrameLessOne : Nat

/-- `T_LATCH_MIN`, a positive duration (rule R6). Only the premise of rule R207 reads it. -/
def tLatchMin : Nat := tLatchMinLessOne + 1

/-- `T_FRAME`, a positive duration (rule R6). Only rule R208's step period reads it. -/
def tFrame : Nat := tFrameLessOne + 1

end Config
end Sys2Proof
end

