-- ==== Sys2Proof/Syntax.lean ====
section
/-! DEFINITION. The block's instructions, one constructor for each of the fifteen rows of spec/opcode_table.json (rule
R101), with their operand types, and the four kinds of input by which an instruction is selected (frame, command port, pin,
internal: the table's formats FRAME, CMD, PIN, INT). -/

namespace Sys2Proof

/-- A DAC channel (rules R15, R50). -/
inductive Channel where
  | A
  | B
  deriving DecidableEq, Repr

/-- `gainMode` (rule R26). -/
inductive GainMode where
  | gain1x
  | gain2x
  deriving DecidableEq, Repr

/-- `sweepPolicy` (rule R29). -/
inductive SweepPolicy where
  | fullSweepPerTrigger
  | singleStepPerPoll
  deriving DecidableEq, Repr

/-- The legal values 8, 10, 12 of `resolutionBits` (rule R24); no other value can be held. -/
inductive Resolution where
  | r8
  | r10
  | r12
  deriving DecidableEq, Repr

/-- The fields of the packed configuration word `cfgw` (rule R94), `res` as it was asked for: any of 0 to 15. -/
structure CfgOperand where
  res : BitVec 4
  dual : Bool
  buf : Bool
  gain : GainMode
  auto : Bool
  latch : Bool
  policy : SweepPolicy
  active : Channel
  deriving DecidableEq, Repr

/-- One constructor per row of the opcode table (rule R101). Value operands are natural numbers (decision D9: the width
`W_VALUE` is a build parameter; `WellFormed` checks it). -/
inductive Instr where
  /-- FRAME_WRITE_12: the write frame of a 12-bit link (rules R87, R88). -/
  | frameWrite12 (ch : Channel) (buf : Bool) (gain : GainMode) (data : BitVec 12)
  /-- FRAME_WRITE_10: the write frame of a 10-bit link. -/
  | frameWrite10 (ch : Channel) (buf : Bool) (gain : GainMode) (data : BitVec 10)
  /-- FRAME_WRITE_8: the write frame of an 8-bit link. -/
  | frameWrite8 (ch : Channel) (buf : Bool) (gain : GainMode) (data : BitVec 8)
  /-- FRAME_SHUTDOWN (rule R89): its channel and data bits are the build parameters SHDN_CHANNEL and SHDN_DATA. -/
  | frameShutdown (buf : Bool) (gain : GainMode)
  /-- CONFIGURE (rule R110). -/
  | configure (o : CfgOperand) (interval : BitVec 32)
  /-- WRITE (rule R111). -/
  | write (c : Channel) (v : Nat)
  /-- WRITEBOTH (rule R113). -/
  | writeBoth (a b : Nat)
  /-- LATCH (rule R114). -/
  | latch
  /-- SHUTDOWN (rule R115). -/
  | shutdown
  /-- POLL.FULL (rule R143). -/
  | pollFull
  /-- POLL.SINGLE (rule R147). -/
  | pollSingle
  /-- TRIG_RISE (rule R141): the active edge. -/
  | trigRise
  /-- TRIG_FALL (rule R142): the inactive edge. -/
  | trigFall
  /-- RESET (rule R200). -/
  | reset
  /-- STEP (rule R144). -/
  | step
  deriving DecidableEq, Repr

/-- What stands on the command port (rule R93). `valA` and `valB` are `W_VALUE` bits wide. -/
structure Command where
  op : BitVec 4
  chan : BitVec 1
  valA : Nat
  valB : Nat
  cfgw : BitVec 16
  interval : BitVec 32
  deriving DecidableEq, Repr

/-- An instruction as it is selected: a frame on the wire (format FRAME), a command (CMD), a transition of the `trig` pin
written (previous level, new level) (PIN), the `rst` input (PIN), or the sequencer's own selector (INT) (rules R97, R101). -/
inductive Code where
  | frame (f : Frame)
  | command (c : Command)
  | trig (t : BitVec 2)
  | rst (r : BitVec 1)
  | internal (p : BitVec 1)
  deriving DecidableEq, Repr

/-- The two configuration fields that change what a code means: `N` lays a frame out, `sweepPolicy` tells the two POLL
rows apart (rule R98). -/
structure Mode where
  res : Resolution
  policy : SweepPolicy
  deriving DecidableEq, Repr

/-- Why a code stands for no instruction. -/
inductive DecodeError where
  /-- `op` is 0x0 or 0x7 to 0xF (rule R96). -/
  | reservedOpcode
  /-- `cfgw[15:11]` is not zero (rule R96). -/
  | reservedConfigBits
  /-- `active = 1` with `dual = 0`: the device has no channel B (rule R96). -/
  | noChannelB
  /-- A value on the port is wider than `W_VALUE` bits: no such word can be presented (rule R93). -/
  | valueTooWide
  /-- A write frame whose bits below the data field are not zero: never sent (rules R86, R91). -/
  | padNotZero
  /-- A frame with the active bit clear that is not the shutdown frame: never sent (rules R89, R91). -/
  | notShutdownFrame
  /-- The pin or selector shows no transition: nothing is selected (rule R97). -/
  | nothingSelected
  deriving DecidableEq, Repr

/-- The decoder's answer. -/
inductive Decoded where
  | ok (i : Instr)
  | rejected (e : DecodeError)
  deriving DecidableEq, Repr

end Sys2Proof
end

