-- ==== Sys2Proof/WellFormed.lean ====
section
/-! DEFINITION. Which instructions a build's command port can carry: a value operand fits `W_VALUE` bits (rule R93), a
`CONFIGURE` does not name channel B of a single-channel device (rule R96). Everything else is right by its type. -/

namespace Sys2Proof

/-- `W_VALUE` is an integer of at least 13 (rule R6). -/
def Build.wellFormed (b : Build) : Bool := decide (13 ≤ b.wValue)

/-- `v` fits the value port (rule R93). -/
def Build.fits (b : Build) (v : Nat) : Bool := decide (v < 2 ^ b.wValue)

/-- `activeChannel` B only with `dualChannel` (rules R6, R96). -/
def CfgOperand.wellFormed (o : CfgOperand) : Bool := o.dual || decide (o.active = .A)

/-- The instruction can be written down in the encoding of its row. -/
def Instr.wellFormed (b : Build) : Instr → Bool
  | .frameWrite12 _ _ _ _ => true
  | .frameWrite10 _ _ _ _ => true
  | .frameWrite8 _ _ _ _ => true
  | .frameShutdown _ _ => true
  | .configure o _ => o.wellFormed
  | .write _ v => b.fits v
  | .writeBoth va vb => b.fits va && b.fits vb
  | .latch => true
  | .shutdown => true
  | .pollFull => true
  | .pollSingle => true
  | .trigRise => true
  | .trigFall => true
  | .reset => true
  | .step => true

/-- The row's mode column holds in `m`: a write frame's layout is that of `N`, a POLL row is that of the policy. -/
def Instr.inMode (m : Mode) : Instr → Bool
  | .frameWrite12 _ _ _ _ => decide (m.res = .r12)
  | .frameWrite10 _ _ _ _ => decide (m.res = .r10)
  | .frameWrite8 _ _ _ _ => decide (m.res = .r8)
  | .pollFull => decide (m.policy = .fullSweepPerTrigger)
  | .pollSingle => decide (m.policy = .singleStepPerPoll)
  | .frameShutdown _ _ => true
  | .configure _ _ => true
  | .write _ _ => true
  | .writeBoth _ _ => true
  | .latch => true
  | .shutdown => true
  | .trigRise => true
  | .trigFall => true
  | .reset => true
  | .step => true

end Sys2Proof
end

