-- ==== Sys2Proof/Decode.lean ====
section
/-! DEFINITION. The decoder, total on every code and rejecting by name, and the encoder written from the same tables: the
frame layouts of rules R80 to R90, the packed configuration of rule R94, the operation codes of rule R95, the pin
transitions of rule R97. -/

namespace Sys2Proof

/-! ### Single bits -/

/-- Bit 15 of a frame, and `chan` on the port: 0 = A, 1 = B (rules R81, R41; decision D4). -/
def Channel.bit : Channel → Bool
  | .A => false
  | .B => true

/-- The channel a channel bit names (rule R81). -/
def Channel.ofBit (b : Bool) : Channel := if b then .B else .A

/-- The numeric code of `gainMode`, bit 6 of `cfgw`: Gain1x 0, Gain2x 1 (rules R41, R94). -/
def GainMode.code : GainMode → Bool
  | .gain1x => false
  | .gain2x => true

/-- The gain mode a code names (rule R94). -/
def GainMode.ofCode (b : Bool) : GainMode := if b then .gain2x else .gain1x

/-- `GA`, bit 13 of a frame: 1 for Gain1x, 0 for Gain2x, the complement of the code (rule R83). -/
def GainMode.ga (g : GainMode) : Bool := !g.code

/-- The gain mode bit 13 of a frame names (rule R83). -/
def GainMode.ofGa (b : Bool) : GainMode := GainMode.ofCode (!b)

/-- The numeric code of `sweepPolicy`, bit 9 of `cfgw` (rules R41, R94). -/
def SweepPolicy.code : SweepPolicy → Bool
  | .fullSweepPerTrigger => false
  | .singleStepPerPoll => true

/-- The policy a code names (rule R94). -/
def SweepPolicy.ofCode (b : Bool) : SweepPolicy := if b then .singleStepPerPoll else .fullSweepPerTrigger

/-! ### Frames -/

/-- The four flag bits of a frame, `CH BUF GA ACT`, most significant first (rule R80). -/
def headerBits (ch buf ga act : Bool) : BitVec 4 :=
  BitVec.ofBool ch ++ BitVec.ofBool buf ++ BitVec.ofBool ga ++ BitVec.ofBool act

/-- The pattern `c b g 1 dddd dddd dddd` (rule R87, N = 12). -/
def frameWord12 (ch : Channel) (buf : Bool) (gain : GainMode) (data : BitVec 12) : Frame :=
  headerBits ch.bit buf gain.ga true ++ data

/-- The pattern `c b g 1 dddd dddd dd00` (rule R87, N = 10). -/
def frameWord10 (ch : Channel) (buf : Bool) (gain : GainMode) (data : BitVec 10) : Frame :=
  headerBits ch.bit buf gain.ga true ++ data ++ 0#2

/-- The pattern `c b g 1 dddd dddd 0000` (rule R87, N = 8). -/
def frameWord8 (ch : Channel) (buf : Bool) (gain : GainMode) (data : BitVec 8) : Frame :=
  headerBits ch.bit buf gain.ga true ++ data ++ 0#4

/-- The pattern of the shutdown frame, `SHDN_CHANNEL b g 0 SHDN_DATA` (rule R89). -/
def frameWordShutdown (b : Build) (buf : Bool) (gain : GainMode) : Frame :=
  headerBits b.shdnChannel buf gain.ga false ++ b.shdnData

/-- A frame under the resolution of its link (rule R90). The frame does not carry the resolution. -/
def decodeFrame (b : Build) (n : Resolution) (f : Frame) : Decoded :=
  let ch := Channel.ofBit (f.getLsbD 15)
  let buf := f.getLsbD 14
  let gain := GainMode.ofGa (f.getLsbD 13)
  if f.getLsbD 12 then
    match n with
    | .r12 => .ok (.frameWrite12 ch buf gain (f.extractLsb' 0 12))
    | .r10 =>
      if f.extractLsb' 0 2 = 0#2 then .ok (.frameWrite10 ch buf gain (f.extractLsb' 2 10)) else .rejected .padNotZero
    | .r8 =>
      if f.extractLsb' 0 4 = 0#4 then .ok (.frameWrite8 ch buf gain (f.extractLsb' 4 8)) else .rejected .padNotZero
  else if f.getLsbD 15 = b.shdnChannel ∧ f.extractLsb' 0 12 = b.shdnData then .ok (.frameShutdown buf gain)
  else .rejected .notShutdownFrame

/-! ### The command port -/

/-- The fields of the packed configuration word (rule R94). -/
def cfgFields (w : BitVec 16) : CfgOperand :=
  { res := w.extractLsb' 0 4
    dual := w.getLsbD 4
    buf := w.getLsbD 5
    gain := GainMode.ofCode (w.getLsbD 6)
    auto := w.getLsbD 7
    latch := w.getLsbD 8
    policy := SweepPolicy.ofCode (w.getLsbD 9)
    active := Channel.ofBit (w.getLsbD 10) }

/-- What makes a packed configuration word no operand at all (rule R96). -/
def cfgError (w : BitVec 16) : Option DecodeError :=
  if w.extractLsb' 11 5 ≠ 0#5 then some .reservedConfigBits
  else if (cfgFields w).wellFormed then none
  else some .noChannelB

/-- The packed image of a configuration, reserved bits zero (rule R94). -/
def encodeCfg (o : CfgOperand) : BitVec 16 :=
  0#5 ++ BitVec.ofBool o.active.bit ++ BitVec.ofBool o.policy.code ++ BitVec.ofBool o.latch ++ BitVec.ofBool o.auto
    ++ BitVec.ofBool o.gain.code ++ BitVec.ofBool o.buf ++ BitVec.ofBool o.dual ++ o.res

/-- Operation codes of rule R95; code 0x6 is told apart by the policy. Each operation reads only its own fields. -/
def decodeCommand (b : Build) (p : SweepPolicy) (c : Command) : Decoded :=
  if c.op = 0x1#4 then
    match cfgError c.cfgw with
    | none => .ok (.configure (cfgFields c.cfgw) c.interval)
    | some e => .rejected e
  else if c.op = 0x2#4 then
    if b.fits c.valA then .ok (.write (Channel.ofBit (c.chan.getLsbD 0)) c.valA) else .rejected .valueTooWide
  else if c.op = 0x3#4 then
    if b.fits c.valA && b.fits c.valB then .ok (.writeBoth c.valA c.valB) else .rejected .valueTooWide
  else if c.op = 0x4#4 then .ok .latch
  else if c.op = 0x5#4 then .ok .shutdown
  else if c.op = 0x6#4 then
    match p with
    | .fullSweepPerTrigger => .ok .pollFull
    | .singleStepPerPoll => .ok .pollSingle
  else .rejected .reservedOpcode

/-- A command with the given operation code and every operand field zero. -/
def bareCommand (op : BitVec 4) : Command :=
  { op := op, chan := 0, valA := 0, valB := 0, cfgw := 0, interval := 0 }

/-! ### Pins and the internal selector -/

/-- A transition of the `trig` pin in terms of active (1) and inactive (0): bit 1 is the level before, bit 0 the level
after (rule R97 and the table's rows TRIG_RISE and TRIG_FALL). -/
def decodeTrig (t : BitVec 2) : Decoded :=
  if t = 0b01#2 then .ok .trigRise
  else if t = 0b10#2 then .ok .trigFall
  else .rejected .nothingSelected

/-- The `rst` input (rule R97). -/
def decodeRst (r : BitVec 1) : Decoded := if r = 1#1 then .ok .reset else .rejected .nothingSelected

/-- The sequencer's own selector: 1 while `S.phase = Sweeping` (rule R97). -/
def decodeInternal (p : BitVec 1) : Decoded := if p = 1#1 then .ok .step else .rejected .nothingSelected

/-- Whether a level of the `trig` pin is active: high when the polarity is Rising, low when it is Falling (rule R33). Read
the other way it gives the level at which the pin is active or not: the function is its own inverse. -/
def TriggerPolarity.active (p : TriggerPolarity) (high : Bool) : Bool :=
  match p with
  | .rising => high
  | .falling => !high

/-- The transition the `trig` pin shows when it goes to the level `high` and its state was `before` (rules R33, R97). -/
def trigTransition (p : TriggerPolarity) (before high : Bool) : BitVec 2 :=
  BitVec.ofBool before ++ BitVec.ofBool (p.active high)

/-! ### The whole decoder and the encoder -/

/-- Every code, by the input it came on. -/
def decode (b : Build) (m : Mode) : Code → Decoded
  | .frame f => decodeFrame b m.res f
  | .command c => decodeCommand b m.policy c
  | .trig t => decodeTrig t
  | .rst r => decodeRst r
  | .internal p => decodeInternal p

/-- The code of an instruction, fields it does not read zero. -/
def encode (b : Build) : Instr → Code
  | .frameWrite12 ch buf gain data => .frame (frameWord12 ch buf gain data)
  | .frameWrite10 ch buf gain data => .frame (frameWord10 ch buf gain data)
  | .frameWrite8 ch buf gain data => .frame (frameWord8 ch buf gain data)
  | .frameShutdown buf gain => .frame (frameWordShutdown b buf gain)
  | .configure o interval => .command { bareCommand 0x1 with cfgw := encodeCfg o, interval := interval }
  | .write c v => .command { bareCommand 0x2 with chan := BitVec.ofBool c.bit, valA := v }
  | .writeBoth va vb => .command { bareCommand 0x3 with valA := va, valB := vb }
  | .latch => .command (bareCommand 0x4)
  | .shutdown => .command (bareCommand 0x5)
  | .pollFull => .command (bareCommand 0x6)
  | .pollSingle => .command (bareCommand 0x6)
  | .trigRise => .trig 0b01
  | .trigFall => .trig 0b10
  | .reset => .rst 1
  | .step => .internal 1

/-! ### Words of the opcode table -/

/-- The mode in force while no configuration is held: the default policy of rule R6, and the 12-bit layout, which every
write frame fits (log entry 4). -/
def Mode.standard : Mode := { res := .r12, policy := .fullSweepPerTrigger }

/-- The code a word of the opcode table stands for. The table has four kinds of row and a word does not say which kind it
is: 16 bits are a frame, 2 bits a transition of `trig`, 1 bit the `rst` input, any other count an `op` code with every
operand zero (log entry 4). -/
def codeOfTableWord (nbits w : Nat) : Code :=
  if nbits = 16 then .frame (BitVec.ofNat 16 w)
  else if nbits = 2 then .trig (BitVec.ofNat 2 w)
  else if nbits = 1 then .rst (BitVec.ofNat 1 w)
  else .command (bareCommand (BitVec.ofNat 4 (if w < 16 then w else 0)))

/-- The instruction the decoder reads from a word of the opcode table, under the defaults of rule R6. -/
def decodeTableWord (nbits w : Nat) : Option Instr :=
  match decode Build.standard Mode.standard (codeOfTableWord nbits w) with
  | .ok i => some i
  | .rejected _ => none

end Sys2Proof
end

