-- ==== Sys2Proof/Machine/State.lean ====
section
/-! DEFINITION. The state of the machine as plain data: the spec's record `S` (rules R20 to R34), what the spec keeps beside
it (the trace of rule R35 and the DAC observer of rules R66 to R68), what the sequencer still has to do of the operation it
is inside (rule R58), and the inputs the environment offers (rules R18, R93). -/

namespace Sys2Proof.Machine

open Sys2Proof

/-- `S.lifecycle` (rule R21). -/
inductive Lifecycle where
  | unconfigured
  | ready
  | halted
  deriving DecidableEq, Repr

/-- `S.fault` (rule R22): None or InvalidModel. -/
inductive FaultCode where
  | noFault
  | invalidModel
  deriving DecidableEq, Repr

/-- `S.phase` (rule R28). -/
inductive Phase where
  | idle
  | sweeping
  deriving DecidableEq, Repr

/-- `S.direction` (rule R31). -/
inductive Direction where
  | ascending
  | descending
  deriving DecidableEq, Repr

/-- `S.cfg`, the configuration record (rules R23 to R27, R29), written once by CONFIGURE. -/
structure DacConfiguration where
  resolutionBits : Resolution
  dualChannel : Bool
  bufferInput : Bool
  gainMode : GainMode
  autoLatchDual : Bool
  latchLinePresent : Bool
  sweepPolicy : SweepPolicy
  activeChannel : Channel
  stepIntervalMicros : BitVec 32
  deriving DecidableEq, Repr

/-- The output events (rule R12). -/
inductive Event where
  | csLow
  | bit (b : Bool)
  | csHigh
  | latchLow
  | latchHigh
  | wait (micros : Nat)
  deriving DecidableEq, Repr

/-- The record a DAC register holds (rule R66). -/
structure DacReg where
  active : Bool
  buf : Bool
  gain1x : Bool
  data12 : BitVec 12
  deriving DecidableEq, Repr

/-- The DAC as observer (rules R66 to R68): an input and an output register per channel, `none` being the spec's mark
`unknown`, and the bits received since chip-select fell (`none` while no window is open). -/
structure Dac where
  inA : Option DacReg
  inB : Option DacReg
  outA : Option DacReg
  outB : Option DacReg
  window : Option (List Bool)
  deriving DecidableEq, Repr

/-- What the sequencer has still to do of the operation it is inside: output events, whole frames not yet begun, and
assignments to `S` (rule R58). -/
inductive SubStep where
  | emit (e : Event)
  | send (f : Frame)
  | setValue (v : Value)
  | setDirection (d : Direction)
  | setPhase (p : Phase)
  | setStepIndex (n : Value)
  deriving DecidableEq, Repr

/-- One choice of the environment (rules R9, R18). Which agent moves next is plain data: a list of these. -/
inductive Move where
  /-- Present a command on the port; while the port is taken the environment waits (rules R18, R93). -/
  | present (c : Command)
  /-- The `trig` pin goes to this electrical level (rules R33, R97). -/
  | trigPin (high : Bool)
  /-- RESET of the block: the `rst` input is asserted, or the block's power is cycled while the DAC and the trigger input keep
  theirs (rules R97, R200). A power cycle that takes the DAC's power too is no move: it begins a run of its own (the model's
  choice, log entry 23). -/
  | rst
  /-- The sequencer runs its next operation whole. -/
  | turn
  /-- The sequencer takes its next atomic sub-step and no more (rule R58). -/
  | fine
  deriving DecidableEq, Repr

/-- The machine. -/
structure State where
  /-- `S.lifecycle` (rule R21). -/
  lifecycle : Lifecycle
  /-- `S.fault` (rule R22). -/
  fault : FaultCode
  /-- `S.cfg`; `none` while it holds no value (rule R23). -/
  cfg : Option DacConfiguration
  /-- `S.phase` (rule R28). -/
  phase : Phase
  /-- `S.stepIndex` (rule R28). -/
  stepIndex : Value
  /-- `S.currentValue` (rule R30). -/
  currentValue : Value
  /-- `S.direction` (rule R31). -/
  direction : Direction
  /-- `S.armed` (rule R32). -/
  armed : Bool
  /-- `S.trigActive` (rule R33). -/
  trigActive : Bool
  /-- `S.cs_n` (rule R34); true is the high level. -/
  csN : Bool
  /-- `S.ldac_n` (rule R34); true is the high level. -/
  ldacN : Bool
  /-- The trace, oldest event first (rules R12, R35). -/
  trace : List Event
  /-- The observer's registers (rule R66). -/
  dac : Dac
  /-- What is left of the operation in progress, next first (rule R58); empty between two commands (rule R17). -/
  work : List SubStep
  /-- The command port (rule R93); a command stands here until it is served (rule R146). -/
  port : Option Command
  /-- What the environment does next, first choice first (rule R18); when it is empty the sequencer runs. -/
  script : List Move
  /-- The build parameters (rule R6); no operation changes them. -/
  build : Build
  deriving DecidableEq, Repr

/-- Why the machine stops. -/
inductive Fault where
  /-- Raised by STEP when its advance would leave `0 .. MAX` (rule R153: "it must fault (give the step no meaning), not
  wrap and not clamp"). Safe; no state that meets `Safety.Inv` reaches it. -/
  | advanceOutOfRange
  /-- Raised by the first STEP of a sweep that begins off its endpoint (rules R153, R210, decision D26, U6: "fault (no wrap,
  no clamp, no frame)"). Safe; no state that meets `Safety.Inv` reaches it. -/
  | sweepOffEndpoint
  deriving DecidableEq, Repr

/-- Why a step has no meaning: the refusals of rules R13 and R173. Every one is safe: the spec gives the refused operation
no effect, and the model gives it no next state. -/
inductive Refusal where
  /-- An instruction the model has not reached, by its mnemonic. Raised by no arm of this model. -/
  | notModelled (mnemonic : String)
  /-- What stands on the port or the wire is no instruction (rules R91, R96, R173(2), R173(5)). Raised by the fetch. -/
  | badEncoding (e : DecodeError)
  /-- CONFIGURE when `S.lifecycle` is not Unconfigured (rule R173(1)). -/
  | notUnconfigured
  /-- CONFIGURE, WRITE or WRITEBOTH naming channel B of a single-channel device (rules R173(2), R173(4)). -/
  | noChannelB
  /-- Any other command, STEP or a frame when `S.lifecycle` is not Ready (rules R91(e), R173(3)). -/
  | notReady
  /-- A command while `S.phase = Sweeping` or inside another operation (rule R173(6)); `step` holds it instead. -/
  | held
  /-- TRIG_RISE while active, TRIG_FALL while inactive (rule R173(7)). -/
  | edgesAlternate
  /-- A POLL row under the other policy (the `require` line of rules R143 and R147). -/
  | wrongPolicy
  /-- STEP when `S.phase` is not Sweeping (the `require` line of rule R144). -/
  | notSweeping
  /-- A frame the block never sends under its configuration (rule R91). -/
  | frameNeverSent
  deriving DecidableEq, Repr

/-- Nothing received yet: all registers `unknown` (rule R66, N16). -/
def Dac.unknown : Dac := { inA := none, inB := none, outA := none, outB := none, window := none }

/-- Right after power-on (rule R39): `S` at its reset values, `S.trigActive` drawn (log entry 1), nothing sent yet, and no
input offered. -/
def State.reset : State :=
  { lifecycle := .unconfigured
    fault := .noFault
    cfg := none
    phase := .idle
    stepIndex := 0
    currentValue := 0
    direction := .ascending
    armed := false
    trigActive := Config.trigAtPowerOn
    csN := true
    ldacN := true
    trace := []
    dac := Dac.unknown
    work := []
    port := none
    script := []
    build := Build.standard }

end Sys2Proof.Machine
end

