-- ==== Sys2Proof/Machine/Operands.lean ====
section
/-! DEFINITION. Operand forms: resolutions, the truncation of a value, and the two frames the encoder builds (rules R24,
R85, R88, R89). -/

namespace Sys2Proof.Machine

open Sys2Proof

/-- `N` (rule R24). -/
def resolutionWidth : Resolution → Nat
  | .r8 => 8
  | .r10 => 10
  | .r12 => 12

/-- The resolution a `res` field asks for, if it is supported (rules R24, R92, R110). -/
def supportedResolution (res : BitVec 4) : Option Resolution :=
  if res = 8#4 then some .r8
  else if res = 10#4 then some .r10
  else if res = 12#4 then some .r12
  else none

/-- `MAX = 2^N − 1` (rule R10). -/
def maxValue (n : Resolution) : Value := BitVec.ofNat 12 (2 ^ resolutionWidth n - 1)

/-- `trunc_N(v) = v mod 2^N` (rules R10, R85). -/
def truncValue (n : Resolution) (v : Nat) : Nat := v % 2 ^ resolutionWidth n

/-- One bit as a frame with only bit 0 possibly set. -/
def bitFrame (b : Bool) : Frame := BitVec.ofNat 16 b.toNat

/-- `f[11:0]` for a value: masked first, then shifted so that the most significant data bit lands at bit 11 (rule R85). -/
def dataField (n : Resolution) (v : Nat) : Frame := BitVec.ofNat 16 (truncValue n v) <<< (12 - resolutionWidth n)

/-- `WriteFrame(S.cfg, c, v)` (rules R88, R111). -/
def writeFrame (cfg : DacConfiguration) (c : Channel) (v : Nat) : Frame :=
  bitFrame c.bit <<< 15 ||| bitFrame cfg.bufferInput <<< 14 ||| bitFrame cfg.gainMode.ga <<< 13 ||| bitFrame true <<< 12
    ||| dataField cfg.resolutionBits v

/-- The build as a device's frames show it: `SHDN_CHANNEL` on a dual-channel device, 0 on a single-channel one, bit 15 of
whose every frame is 0 (rules R25, R81, R89, R91(c), decision D7; log entry 21). -/
def deviceBuild (b : Build) (cfg : DacConfiguration) : Build :=
  { b with shdnChannel := cfg.dualChannel && b.shdnChannel }

/-- `ShutdownFrame(S.cfg)` (rules R25, R89, R115). Its bits 11..0 are `SHDN_DATA` whole at every `N`, whatever stands below the
data field (log entry 24). -/
def shutdownFrame (b : Build) (cfg : DacConfiguration) : Frame :=
  bitFrame (deviceBuild b cfg).shdnChannel <<< 15 ||| bitFrame cfg.bufferInput <<< 14 ||| bitFrame cfg.gainMode.ga <<< 13
    ||| bitFrame false <<< 12 ||| b.shdnData.setWidth 16

/-- Whether the device has the channel (rules R25, R111; decision D7). -/
def channelExists (cfg : DacConfiguration) (c : Channel) : Bool := decide (c = .A) || cfg.dualChannel

/-- The configuration record of a CONFIGURE operand whose resolution is supported (rule R110). -/
def configurationOf (n : Resolution) (o : CfgOperand) (interval : BitVec 32) : DacConfiguration :=
  { resolutionBits := n
    dualChannel := o.dual
    bufferInput := o.buf
    gainMode := o.gain
    autoLatchDual := o.auto
    latchLinePresent := o.latch
    sweepPolicy := o.policy
    activeChannel := o.active
    stepIntervalMicros := interval }

end Sys2Proof.Machine
end

