-- ==== Sys2Proof/Machine/Flags.lean ====
section
/-! DEFINITION. How the flags and the counter move: `S.direction`, `S.armed`, `S.currentValue` (rules R31, R32, R144, R147,
R152, R153). -/

namespace Sys2Proof.Machine

open Sys2Proof

/-- The other direction (rule R144). -/
def Direction.flip : Direction → Direction
  | .ascending => .descending
  | .descending => .ascending

/-- The start-endpoint invariant (rule R153): a sweep begins at 0 going up and at `MAX` going down. -/
def startsAtEndpoint (mx : Value) (d : Direction) (v : Value) : Bool :=
  match d with
  | .ascending => decide (v = 0)
  | .descending => decide (v = mx)

/-- The value a sweep step sends: the counter as it is on the first step, otherwise advanced by one in the direction held
(rule R144). A sweep begun off its endpoint and an advance that would leave `0 .. MAX` fault (rule R153, decision D26). -/
def sweepValue (mx : Value) (index : Value) (d : Direction) (v : Value) : Except Fault Value :=
  if index = 0 then if startsAtEndpoint mx d v then .ok v else .error .sweepOffEndpoint
  else match d with
    | .ascending => if v.toNat + 1 ≤ mx.toNat then .ok (v + 1) else .error .advanceOutOfRange
    | .descending => if 0 < v.toNat ∧ v.toNat - 1 ≤ mx.toNat then .ok (v - 1) else .error .advanceOutOfRange

/-- A single-step advance with reversal at an endpoint (rule R147). -/
def triangleAdvance (mx : Value) : Direction × Value → Direction × Value
  | (.ascending, v) => if v = mx then (.descending, mx - 1) else (.ascending, v + 1)
  | (.descending, v) => if v = 0 then (.ascending, 1) else (.descending, v - 1)

/-- `S.armed` after a successful CONFIGURE: the level of the pin under SingleStepPerPoll, otherwise as it was (rule R110). -/
def armedAfterConfigure (p : SweepPolicy) (trigActive armed : Bool) : Bool :=
  match p with
  | .fullSweepPerTrigger => armed
  | .singleStepPerPoll => trigActive

/-- `S.armed` after the active edge (rule R141): set while the trigger is enabled. -/
def armedAfterRise (l : Lifecycle) (armed : Bool) : Bool :=
  match l with
  | .ready => true
  | .unconfigured => armed
  | .halted => armed

/-- `S.armed` after the inactive edge (rule R142): cleared while the block is Ready under SingleStepPerPoll. -/
def armedAfterFall (l : Lifecycle) (cfg : Option DacConfiguration) (armed : Bool) : Bool :=
  match l, cfg with
  | .ready, some c =>
    match c.sweepPolicy with
    | .singleStepPerPoll => false
    | .fullSweepPerTrigger => armed
  | _, _ => armed

end Sys2Proof.Machine
end

