-- ==== Sys2Proof/Machine/Observer.lean ====
section
/-! DEFINITION. The DAC as the observer of the wire (rules R66 to R69): what each event does to its registers. -/

namespace Sys2Proof.Machine

open Sys2Proof

/-- The record a frame loads (rule R67). -/
def dacRegOfFrame (f : Frame) : DacReg :=
  { active := f.getLsbD 12, buf := f.getLsbD 14, gain1x := f.getLsbD 13, data12 := f.extractLsb' 0 12 }

/-- Sixteen received bits as a frame, the first received being bit 15 (rule R51). -/
def frameOfBits (bs : List Bool) : Frame := bs.foldl (fun f b => (f <<< 1) ||| bitFrame b) 0

/-- The input register of a channel. -/
def Dac.input (d : Dac) : Channel → Option DacReg
  | .A => d.inA
  | .B => d.inB

/-- The output register of a channel. -/
def Dac.output (d : Dac) : Channel → Option DacReg
  | .A => d.outA
  | .B => d.outB

/-- A frame received: the channel's input register takes it, and its output register too on a device without a latch line
(rule R67). -/
def Dac.receive (latch : Bool) (f : Frame) (d : Dac) : Dac :=
  let r := some (dacRegOfFrame f)
  match Channel.ofBit (f.getLsbD 15) with
  | .A => { d with inA := r, outA := if latch then d.outA else r }
  | .B => { d with inB := r, outB := if latch then d.outB else r }

/-- A latch pulse ends: both channels commit together, or, if the low phase was too short, both outputs become `unknown`
(rule R68, U2). -/
def Dac.closePulse (longEnough : Bool) (d : Dac) : Dac :=
  if longEnough then { d with outA := d.inA, outB := d.inB } else { d with outA := none, outB := none }

/-- What one event does to the observer (rules R66 to R68). A pulse that runs to its `LatchHigh` is long enough: rule R18
lists a shorter one among the abstentions the model has no move for. -/
def Dac.observe (latch : Bool) (d : Dac) : Event → Dac
  | .csLow => { d with window := some [] }
  | .bit b => { d with window := d.window.map fun bs => bs ++ [b] }
  | .csHigh =>
    match d.window with
    | some bs => { (if bs.length = 16 then d.receive latch (frameOfBits bs) else d) with window := none }
    | none => d
  | .latchLow => d
  | .latchHigh => d.closePulse true
  | .wait _ => d

/-- What several events in order do to the observer. -/
def Dac.sees (latch : Bool) (d : Dac) (es : List Event) : Dac := es.foldl (Dac.observe latch) d

/-- The observer as a function of the trace (rule R66). -/
def Dac.ofTrace (latch : Bool) (t : List Event) : Dac := Dac.unknown.sees latch t

/-- RESET brings both pins high: an open window is an incomplete frame, which is ignored (rule R200), and an open pulse is
cut short, so that it may have been too short (rule R68; log entry 6). -/
def Dac.pinsForcedHigh (ldacN : Bool) (d : Dac) : Dac :=
  { (if ldacN then d else d.closePulse false) with window := none }

/-- What a register puts out, in 1/4096 of full scale with the gain applied; `none` when the channel is shut down (rule
R69). -/
def DacReg.outputUnits (r : DacReg) : Option Nat :=
  if r.active then some (r.data12.toNat * (if r.gain1x then 1 else 2)) else none

end Sys2Proof.Machine
end

