-- ==== Sys2Proof/Machine/Ops.lean ====
section
/-! DEFINITION. The operations the meanings share: output primitives (rule R12), sub-steps (rule R58), the enabling
conditions (rules R109, R146), taking the one exception (rule R170) and the trigger interrupt (rules R175, R178). -/

namespace Sys2Proof.Machine

open Sys2Proof

/-- The outcome of a step (rule R13). -/
abbrev Result := Host.Outcome State Fault Refusal

/-! ### Output -/

/-- `S.cs_n` after an event (rule R34). -/
def csAfter (level : Bool) : Event → Bool
  | .csLow => false
  | .csHigh => true
  | .bit _ => level
  | .latchLow => level
  | .latchHigh => level
  | .wait _ => level

/-- `S.ldac_n` after an event (rule R34). -/
def ldacAfter (level : Bool) : Event → Bool
  | .latchLow => false
  | .latchHigh => true
  | .csLow => level
  | .csHigh => level
  | .bit _ => level
  | .wait _ => level

/-- Whether a latch line is configured (rule R27); it is read only while a configuration is held. -/
def State.latchLine (s : State) : Bool :=
  match s.cfg with
  | some c => c.latchLinePresent
  | none => false

/-- The build in which the frames of the machine are read: that of the device configured (rules R25, R89). -/
def State.deviceBuild (s : State) : Build :=
  match s.cfg with
  | some c => Machine.deviceBuild s.build c
  | none => s.build

/-- One output event: the trace grows by it, the pins follow, the DAC sees it (rules R12, R34, R66). -/
def emit (e : Event) (s : State) : State :=
  { s with
    trace := s.trace ++ [e]
    csN := csAfter s.csN e
    ldacN := ldacAfter s.ldacN e
    dac := s.dac.observe s.latchLine e }

/-- Several output events in order (rule R62). -/
def emitAll : List Event → State → State
  | [], s => s
  | e :: es, s => emitAll es (emit e s)

/-- The sixteen bits of a frame, bit 15 first (rule R51). -/
def frameBits (f : Frame) : List Bool := (List.range 16).map fun i => f.getMsbD i

/-- The events of `BusSend(f)` after its `CsLow` (rule R12). -/
def busSendTail (f : Frame) : List Event := (frameBits f).map Event.bit ++ [.csHigh]

/-- The 18 events of `BusSend(f)` (rules R12, R52). -/
def busSendEvents (f : Frame) : List Event := .csLow :: busSendTail f

/-- The events of `LATCH()`: `LatchPulse()`, or nothing without a latch line (rules R12, R114). -/
def latchEvents (cfg : DacConfiguration) : List Event :=
  if cfg.latchLinePresent then [.latchLow, .latchHigh] else []

/-- The event of `Delay(S.cfg.stepIntervalMicros)` (rules R12, R144, R181). -/
def delayEvents (cfg : DacConfiguration) : List Event := [.wait cfg.stepIntervalMicros.toNat]

/-- The events of one step of a ramp: the frame of WRITE to the active channel, then LATCH, then Delay (rules R144, R147). -/
def outputEvents (cfg : DacConfiguration) (v : Value) : List Event :=
  busSendEvents (writeFrame cfg cfg.activeChannel v.toNat) ++ latchEvents cfg ++ delayEvents cfg

/-! ### Sub-steps -/

/-- One sub-step, a frame being sent whole. -/
def runSub : SubStep → State → State
  | .emit e, s => emit e s
  | .send f, s => emitAll (busSendEvents f) s
  | .setValue v, s => { s with currentValue := v }
  | .setDirection d, s => { s with direction := d }
  | .setPhase p, s => { s with phase := p }
  | .setStepIndex n, s => { s with stepIndex := n }

/-- Sub-steps in order (rule R11). -/
def runSubs : List SubStep → State → State
  | [], s => s
  | w :: ws, s => runSubs ws (runSub w s)

/-- The state once the operation in progress is complete. -/
def State.settle (s : State) : State := runSubs s.work { s with work := [] }

/-- An operation run from its start to its end with nothing interleaved. -/
def complete : Result → Result
  | .next s => .next s.settle
  | .fault r => .fault r
  | .refused r => .refused r

/-- The pseudocode of WRITE as sub-steps, once its conditions hold (rules R14, R111). -/
def writeSubs (cfg : DacConfiguration) (c : Channel) (v : Nat) : List SubStep := [.send (writeFrame cfg c v)]

/-- The pseudocode of LATCH as sub-steps (rules R14, R114). -/
def latchSubs (cfg : DacConfiguration) : List SubStep := (latchEvents cfg).map .emit

/-- `Delay(S.cfg.stepIntervalMicros)` as sub-steps. -/
def delaySubs (cfg : DacConfiguration) : List SubStep := (delayEvents cfg).map .emit

/-- What every step of a ramp sends: WRITE to the active channel, LATCH, Delay (rules R144, R147). -/
def outputSubs (cfg : DacConfiguration) (v : Value) : List SubStep :=
  writeSubs cfg cfg.activeChannel v.toNat ++ latchSubs cfg ++ delaySubs cfg

/-! ### Enabling conditions -/

/-- The configuration of a Ready block; a refusal otherwise (rules R21, R109(b)). -/
def State.whenReady (s : State) (k : DacConfiguration → Result) : Result :=
  match s.lifecycle, s.cfg with
  | .ready, some cfg => k cfg
  | _, _ => .refused .notReady

/-- A command is served only between two commands and never while a sweep runs (rules R93, R109(c), R146). -/
def State.whenFree (s : State) (k : Result) : Result :=
  if s.work = [] ∧ s.phase = .idle then k else .refused .held

/-- `require` (rules R11, R13). -/
def require (c : Bool) (r : Refusal) (k : Result) : Result := if c then k else .refused r

/-! ### The exception and the interrupt -/

/-- Taking `InvalidModel` (rule R170): the fault register names it, the block halts; nothing is saved and nothing sent. -/
def raiseInvalidModel (s : State) : State := { s with fault := .invalidModel, lifecycle := .halted }

/-- Taking the trigger interrupt on an edge (rule R175): the handler's whole effect is `S.armed` and `S.trigActive`. No
state is saved, so that the return (rule R178) has nothing to restore: the sequencer goes on with `s.work` as it was. -/
def takeTrigger (level armed : Bool) (s : State) : State := { s with trigActive := level, armed := armed }

/-- Everything RESET writes (rule R200); the only way out of Halted (rules R21, R171). `S.trigActive`, the trace, the DAC's
registers, the inputs and the build stay. What was left of an operation is abandoned. -/
def resetState (s : State) : State :=
  { s with
    lifecycle := .unconfigured
    fault := .noFault
    cfg := none
    phase := .idle
    stepIndex := 0
    currentValue := 0
    direction := .ascending
    armed := false
    csN := true
    ldacN := true
    dac := s.dac.pinsForcedHigh s.ldacN
    work := [] }

end Sys2Proof.Machine
end

