-- ==== Sys2Proof/Machine/Encoder.lean ====
section
/-! DEFINITION. The encoder's operations CONFIGURE, WRITE, WRITEBOTH, LATCH, SHUTDOWN (rules R109 to R119). Each has two
definitions: `start…` checks the conditions and leaves the operation's sub-steps to do (rule R58), `exec…` runs it whole. -/

namespace Sys2Proof.Machine

open Sys2Proof

/-- CONFIGURE (rule R110). Its body is one atomic block: nothing is left to do. The `require` on `cfgw[15:11]` is the
decoder's (`cfgError`); an operand has no reserved bits. -/
def startConfigure (o : CfgOperand) (interval : BitVec 32) (s : State) : Result :=
  require (decide (s.lifecycle = .unconfigured)) .notUnconfigured <|
  require o.wellFormed .noChannelB <|
  s.whenFree <|
  match supportedResolution o.res with
  | some n =>
    .next { s with
      cfg := some (configurationOf n o interval)
      armed := armedAfterConfigure o.policy s.trigActive s.armed
      lifecycle := .ready }
  | none => .next (raiseInvalidModel s)

/-- CONFIGURE, whole. -/
def execConfigure (o : CfgOperand) (interval : BitVec 32) (s : State) : Result := complete (startConfigure o interval s)

/-- WRITE (rule R111). -/
def startWrite (c : Channel) (v : Nat) (s : State) : Result :=
  s.whenReady fun cfg => s.whenFree <|
  require (channelExists cfg c) .noChannelB <|
  .next { s with work := writeSubs cfg c v }

/-- WRITE, whole. -/
def execWrite (c : Channel) (v : Nat) (s : State) : Result := complete (startWrite c v s)

/-- WRITEBOTH (rule R113): A, then B, then LATCH if `autoLatchDual`. -/
def startWriteBoth (a b : Nat) (s : State) : Result :=
  s.whenReady fun cfg => s.whenFree <|
  require cfg.dualChannel .noChannelB <|
  .next { s with
    work := writeSubs cfg .A a ++ writeSubs cfg .B b ++ (if cfg.autoLatchDual then latchSubs cfg else []) }

/-- WRITEBOTH, whole. -/
def execWriteBoth (a b : Nat) (s : State) : Result := complete (startWriteBoth a b s)

/-- LATCH (rule R114): a no-op, not a refusal, without a latch line. -/
def startLatch (s : State) : Result :=
  s.whenReady fun cfg => s.whenFree <| .next { s with work := latchSubs cfg }

/-- LATCH, whole. -/
def execLatch (s : State) : Result := complete (startLatch s)

/-- SHUTDOWN (rule R115): one frame, no pulse, no state. -/
def startShutdown (s : State) : Result :=
  s.whenReady fun cfg => s.whenFree <| .next { s with work := [.send (shutdownFrame s.build cfg)] }

/-- SHUTDOWN, whole. -/
def execShutdown (s : State) : Result := complete (startShutdown s)

end Sys2Proof.Machine
end

