-- ==== Sys2Proof/Machine/Frames.lean ====
section
/-! DEFINITION. The four frame rows of the opcode table: the transfer of one frame, `BusSend(f)` (rules R12, R52), which the
sequencer takes from its own sub-steps and which the DAC receives (rule R67). The block sends only the frames of rule R91;
any other has no meaning here. -/

namespace Sys2Proof.Machine

open Sys2Proof

/-- Whether a write frame with these flag bits, laid out for resolution `n`, is one the block sends (rule R91). -/
def sendsWriteFrame (cfg : DacConfiguration) (n : Resolution) (ch : Channel) (buf : Bool) (gain : GainMode) : Bool :=
  decide (cfg.resolutionBits = n) && channelExists cfg ch && decide (buf = cfg.bufferInput) && decide (gain = cfg.gainMode)

/-- A frame in front of whatever else is left to do. -/
def pushFrame (f : Frame) (s : State) : State := { s with work := .send f :: s.work }

/-- A frame, transferred whole; what else is left to do is left as it is. -/
def transferFrame (f : Frame) (s : State) : State := emitAll (busSendEvents f) s

/-- The conditions of a write frame, then its transfer. -/
def writeFrameTransfer (n : Resolution) (ch : Channel) (buf : Bool) (gain : GainMode) (f : Frame) (s : State) : Result :=
  s.whenReady fun cfg => require (sendsWriteFrame cfg n ch buf gain) .frameNeverSent <| .next (transferFrame f s)

/-- FRAME_WRITE_12 (rules R87, R88, R91). -/
def execFrameWrite12 (ch : Channel) (buf : Bool) (gain : GainMode) (data : BitVec 12) (s : State) : Result :=
  writeFrameTransfer .r12 ch buf gain (frameWord12 ch buf gain data) s

/-- FRAME_WRITE_10 (rules R87, R88, R91). -/
def execFrameWrite10 (ch : Channel) (buf : Bool) (gain : GainMode) (data : BitVec 10) (s : State) : Result :=
  writeFrameTransfer .r10 ch buf gain (frameWord10 ch buf gain data) s

/-- FRAME_WRITE_8 (rules R87, R88, R91). -/
def execFrameWrite8 (ch : Channel) (buf : Bool) (gain : GainMode) (data : BitVec 8) (s : State) : Result :=
  writeFrameTransfer .r8 ch buf gain (frameWord8 ch buf gain data) s

/-- FRAME_SHUTDOWN (rules R25, R89, R91). -/
def execFrameShutdown (buf : Bool) (gain : GainMode) (s : State) : Result :=
  s.whenReady fun cfg =>
    require (decide (buf = cfg.bufferInput) && decide (gain = cfg.gainMode)) .frameNeverSent <|
    .next (transferFrame (frameWordShutdown (deviceBuild s.build cfg) buf gain) s)

end Sys2Proof.Machine
end

