-- ==== Sys2Proof/Machine/Pins.lean ====
section
/-! DEFINITION. The pin events TRIG_RISE, TRIG_FALL and RESET (rules R141, R142, R200). Each is one atomic step and may stand
between any two sub-steps of the sequencer (rules R9, R58). -/

namespace Sys2Proof.Machine

open Sys2Proof

/-- TRIG_RISE (rule R141): the active edge. -/
def execTrigRise (s : State) : Result :=
  require (!s.trigActive) .edgesAlternate <| .next (takeTrigger true (armedAfterRise s.lifecycle s.armed) s)

/-- TRIG_FALL (rule R142): the inactive edge. -/
def execTrigFall (s : State) : Result :=
  require s.trigActive .edgesAlternate <| .next (takeTrigger false (armedAfterFall s.lifecycle s.cfg s.armed) s)

/-- RESET (rule R200): enabled in every state. -/
def execReset (s : State) : Result := .next (resetState s)

end Sys2Proof.Machine
end

