-- ==== Sys2Proof/Machine/Sequencer.lean ====
section
/-! DEFINITION. The sequencer's operations POLL.FULL, POLL.SINGLE and STEP (rules R143, R144, R147, R150). -/

namespace Sys2Proof.Machine

open Sys2Proof

/-- POLL under FullSweepPerTrigger (rule R143): the atomic test-and-clear of `S.armed` that launches a sweep. -/
def startPollFull (s : State) : Result :=
  s.whenReady fun cfg => require (decide (cfg.sweepPolicy = .fullSweepPerTrigger)) .wrongPolicy <| s.whenFree <|
  .next (if s.armed then { s with armed := false, phase := .sweeping, stepIndex := 0 } else s)

/-- POLL.FULL, whole: it is one atomic block already. -/
def execPollFull (s : State) : Result := complete (startPollFull s)

/-- The assignments of a single-step advance from `before` to `after`: the direction only where it turns (rule R147). -/
def advanceSubs (before after : Direction × Value) : List SubStep :=
  (if before.1 = after.1 then [] else [.setDirection after.1]) ++ [.setValue after.2]

/-- The armed branch of POLL.SINGLE in the order of the build (rules R147, R150). -/
def pollSingleSubs (order : PollOrder) (cfg : DacConfiguration) (d : Direction) (v : Value) : List SubStep :=
  let after := triangleAdvance (maxValue cfg.resolutionBits) (d, v)
  match order with
  | .advanceThenEmit => advanceSubs (d, v) after ++ outputSubs cfg after.2
  | .emitThenAdvance => outputSubs cfg v ++ advanceSubs (d, v) after

/-- POLL under SingleStepPerPoll (rule R147): one read of `S.armed` decides the whole step. The WRITE it performs brings
its own condition on the channel (rule R14). -/
def startPollSingle (s : State) : Result :=
  s.whenReady fun cfg => require (decide (cfg.sweepPolicy = .singleStepPerPoll)) .wrongPolicy <| s.whenFree <|
  if s.armed then
    require (channelExists cfg cfg.activeChannel) .noChannelB <|
    .next { s with work := pollSingleSubs s.build.pollOrder cfg s.direction s.currentValue }
  else .next s

/-- POLL.SINGLE, whole. -/
def execPollSingle (s : State) : Result := complete (startPollSingle s)

/-- The assignments that close a sweep step (rule R144). -/
def closeSubs (mx index : Value) (d : Direction) : List SubStep :=
  if index = mx then [.setDirection d.flip, .setPhase .idle, .setStepIndex 0] else [.setStepIndex (index + 1)]

/-- One step of a sweep as sub-steps, `v` being the value it sends (rule R144). -/
def stepSubs (cfg : DacConfiguration) (index : Value) (d : Direction) (v : Value) : List SubStep :=
  (if index = 0 then [] else [.setValue v]) ++ outputSubs cfg v ++ closeSubs (maxValue cfg.resolutionBits) index d

/-- STEP (rule R144). Off its ramp it faults (rule R153). -/
def startStep (s : State) : Result :=
  s.whenReady fun cfg => require (decide (s.phase = .sweeping)) .notSweeping <|
  require (decide (s.work = [])) .held <|
  match sweepValue (maxValue cfg.resolutionBits) s.stepIndex s.direction s.currentValue with
  | .error f => .fault f
  | .ok v =>
    require (channelExists cfg cfg.activeChannel) .noChannelB <|
    .next { s with work := stepSubs cfg s.stepIndex s.direction v }

/-- STEP, whole. -/
def execStep (s : State) : Result := complete (startStep s)

end Sys2Proof.Machine
end

