-- ==== Sys2Proof/Machine/Dispatch.lean ====
section
/-! DEFINITION. What each instruction does, one arm per row of the opcode table (rule R101). -/

namespace Sys2Proof.Machine

open Sys2Proof

-- An instruction is run whole, with nothing interleaved; `start` (Start.lean) begins one whose sub-steps may be.
def exec (i : Instr) (s : State) : Host.Outcome State Fault Refusal :=
  match i with
  | .frameWrite12 ch buf gain data => Sys2Proof.Machine.execFrameWrite12 ch buf gain data s
  | .frameWrite10 ch buf gain data => Sys2Proof.Machine.execFrameWrite10 ch buf gain data s
  | .frameWrite8 ch buf gain data => Sys2Proof.Machine.execFrameWrite8 ch buf gain data s
  | .frameShutdown buf gain => Sys2Proof.Machine.execFrameShutdown buf gain s
  | .configure o interval => Sys2Proof.Machine.execConfigure o interval s
  | .write c v => Sys2Proof.Machine.execWrite c v s
  | .writeBoth a b => Sys2Proof.Machine.execWriteBoth a b s
  | .latch => Sys2Proof.Machine.execLatch s
  | .shutdown => Sys2Proof.Machine.execShutdown s
  | .pollFull => Sys2Proof.Machine.execPollFull s
  | .pollSingle => Sys2Proof.Machine.execPollSingle s
  | .trigRise => Sys2Proof.Machine.execTrigRise s
  | .trigFall => Sys2Proof.Machine.execTrigFall s
  | .reset => Sys2Proof.Machine.execReset s
  | .step => Sys2Proof.Machine.execStep s

end Sys2Proof.Machine
end

