-- ==== Sys2Proof/Machine/Start.lean ====
section
/-! DEFINITION. Beginning an instruction at the granularity of rule R58: the conditions and the first atomic part are done,
the rest is left in `work`, where trigger edges and RESET may fall between any two sub-steps. -/

namespace Sys2Proof.Machine

open Sys2Proof

/-- A frame about to be sent: as `exec`, but the frame is left to do. -/
def startFrame (f : Frame) (s : State) : Result → Result
  | .next _ => .next (pushFrame f s)
  | .fault r => .fault r
  | .refused r => .refused r

/-- The beginning of an instruction. Pin events are atomic (rule R58) and begin and end at once. -/
def start (i : Instr) (s : State) : Result :=
  match i with
  | .frameWrite12 ch buf gain data => startFrame (frameWord12 ch buf gain data) s (execFrameWrite12 ch buf gain data s)
  | .frameWrite10 ch buf gain data => startFrame (frameWord10 ch buf gain data) s (execFrameWrite10 ch buf gain data s)
  | .frameWrite8 ch buf gain data => startFrame (frameWord8 ch buf gain data) s (execFrameWrite8 ch buf gain data s)
  | .frameShutdown buf gain => startFrame (frameWordShutdown s.deviceBuild buf gain) s (execFrameShutdown buf gain s)
  | .configure o interval => startConfigure o interval s
  | .write c v => startWrite c v s
  | .writeBoth a b => startWriteBoth a b s
  | .latch => startLatch s
  | .shutdown => startShutdown s
  | .pollFull => startPollFull s
  | .pollSingle => startPollSingle s
  | .trigRise => execTrigRise s
  | .trigFall => execTrigFall s
  | .reset => execReset s
  | .step => startStep s

end Sys2Proof.Machine
end

