-- ==== Sys2Proof/Machine/Turn.lean ====
section
/-! DEFINITION. Which instruction comes next and who takes it: the sequencer's turn (from what is left of an operation, from
the sweep, or from the command port), the environment's moves, and the placing of an opcode-table word where the next step
takes its instruction (rules R9, R58, R93, R97, R146). -/

namespace Sys2Proof.Machine

open Sys2Proof

/-- The mode codes are read in: the configuration's, or the defaults while none is held (rules R90, R95, R98; log entry 4). -/
def State.mode (s : State) : Mode :=
  match s.cfg with
  | some c => { res := c.resolutionBits, policy := c.sweepPolicy }
  | none => Mode.standard

/-- Run what was decoded, or refuse by name. -/
def runDecoded (run : Instr → State → Result) (d : Decoded) (s : State) : Result :=
  match d with
  | .ok i => run i s
  | .rejected e => .refused (.badEncoding e)

/-- The sequencer between two operations: the next step of a sweep if one runs (rule R146), otherwise the command on the
port, otherwise nothing (rule R18: the environment may present no command at all). -/
def nextOperation (run : Instr → State → Result) (s : State) : Result :=
  match s.phase with
  | .sweeping => runDecoded run (decode s.build s.mode (.internal 1)) s
  | .idle =>
    match s.port with
    | none => .next s
    | some c => runDecoded run (decode s.build s.mode (.command c)) { s with port := none }

/-- The sequencer's turn, a whole instruction at a time: a frame left to send is decoded under `N` and sent whole. -/
def wholeTurn (s : State) : Result :=
  match s.work with
  | [] => nextOperation exec s
  | .send f :: rest => runDecoded exec (decode s.deviceBuild s.mode (.frame f)) { s with work := rest }
  | w :: rest => .next (runSub w { s with work := rest })

/-- The sequencer's turn, one atomic sub-step at a time (rule R58): a frame left to send is begun. -/
def fineTurn (s : State) : Result :=
  match s.work with
  | [] => nextOperation start s
  | .send f :: rest => .next (emit .csLow { s with work := (busSendTail f).map .emit ++ rest })
  | w :: rest => .next (runSub w { s with work := rest })

/-- One step of the machine: the environment's next move, or the sequencer's turn when it has none (rule R9). A command
waits while another stands on the port; one that stands there waits while the sequencer is busy (rules R18, R146). -/
def takeMove (s : State) : Result :=
  match s.script with
  | [] => wholeTurn s
  | .present c :: rest =>
    match s.port with
    | none => .next { s with port := some c, script := rest }
    | some _ => wholeTurn s
  | .trigPin high :: rest =>
    runDecoded exec (decode s.build s.mode (.trig (trigTransition s.build.triggerPolarity s.trigActive high)))
      { s with script := rest }
  | .rst :: rest => runDecoded exec (decode s.build s.mode (.rst 1)) { s with script := rest }
  | .turn :: rest => wholeTurn { s with script := rest }
  | .fine :: rest => fineTurn { s with script := rest }

/-- A code placed where the next step takes its instruction from (log entry 4). -/
def placeCode (c : Code) (s : State) : State :=
  match c with
  | .frame f => { s with work := .send f :: s.work, script := .turn :: s.script }
  | .command c => { s with work := [], phase := .idle, port := some c, script := .turn :: s.script }
  | .trig t =>
    { s with
      trigActive := t.getLsbD 1
      script := .trigPin (s.build.triggerPolarity.active (t.getLsbD 0)) :: s.script }
  | .rst _ => { s with script := .rst :: s.script }
  | .internal _ => { s with work := [], phase := .sweeping, script := .turn :: s.script }

end Sys2Proof.Machine
end

