-- ==== Sys2Proof/Machine/Step.lean ====
section
/-! DEFINITION. The step of the machine. -/

namespace Sys2Proof.Machine

open Sys2Proof

/-- One step (rules R8, R9): the environment's next move if it has one, otherwise the sequencer's turn. -/
def step (s : State) : Host.Outcome State Fault Refusal := takeMove s

/-- The state with a word of the opcode table stored where the next step takes its instruction. -/
def State.withFetchWord (s : State) (nbits w : Nat) : State := placeCode (codeOfTableWord nbits w) s

end Sys2Proof.Machine
end

