-- ==== Sys2Proof/Machine/Script.lean ====
section
/-! DEFINITION. The environment's scripts: the move that brings an instruction about, the one-line syntax of rule R99 and
the pseudo-operations of rule R100. -/

namespace Sys2Proof.Machine

open Sys2Proof

/-- The moves by which the environment brings an instruction about (rules R93, R97): a command is presented, a pin changes,
a STEP is left to the sequencer. A frame is never the environment's (rule R18). -/
def movesOf (b : Build) (i : Instr) : List Move :=
  match encode b i with
  | .command c => [.present c]
  | .trig t => [.trigPin (b.triggerPolarity.active (t.getLsbD 0))]
  | .rst _ => [.rst]
  | .internal _ => [.turn]
  | .frame _ => []

/-- The pseudo-operations of rule R100. -/
inductive Pseudo where
  | sweep
  | latchpulse
  | wake (c : Channel) (v : Nat)
  | arm
  deriving DecidableEq, Repr

/-- The turns that bring the sequencer to `S.phase = Idle` (rule R100): what is left of the STEP in progress, and the
`2^N − S.stepIndex` STEPs the sweep still owes after it; none in Idle. -/
def turnsToIdle (s : State) : Nat :=
  match s.phase, s.cfg with
  | .sweeping, some cfg =>
    s.work.length + match s.settle.phase with
      | .sweeping => 2 ^ resolutionWidth cfg.resolutionBits - s.settle.stepIndex.toNat
      | .idle => 0
  | _, _ => 0

/-- Their expansions at a state (rule R100): `sweep` is STEP repeated until `S.phase = Idle`. -/
def expandPseudo (s : State) : Pseudo → List Move
  | .sweep => List.replicate (turnsToIdle s) .turn
  | .latchpulse => movesOf s.build .latch
  | .wake c v => movesOf s.build (.write c v)
  | .arm => movesOf s.build .trigRise

/-- `A` or `B` (rule R99). -/
def channelText : Channel → String
  | .A => "A"
  | .B => "B"

/-- `0` or `1` (rule R99). -/
def boolText (b : Bool) : String := if b then "1" else "0"

/-- `1x` or `2x` (rule R99). -/
def gainText : GainMode → String
  | .gain1x => "1x"
  | .gain2x => "2x"

/-- `full` or `single` (rule R99). -/
def policyText : SweepPolicy → String
  | .fullSweepPerTrigger => "full"
  | .singleStepPerPoll => "single"

/-- The script line of an instruction (rule R99); a frame has none. -/
def lineOf : Instr → Option String
  | .frameWrite12 _ _ _ _ => none
  | .frameWrite10 _ _ _ _ => none
  | .frameWrite8 _ _ _ _ => none
  | .frameShutdown _ _ => none
  | .configure o interval =>
    some ("configure res=" ++ toString o.res.toNat ++ " dual=" ++ boolText o.dual ++ " buf=" ++ boolText o.buf
      ++ " gain=" ++ gainText o.gain ++ " auto=" ++ boolText o.auto ++ " latch=" ++ boolText o.latch
      ++ " policy=" ++ policyText o.policy ++ " active=" ++ channelText o.active
      ++ " interval=" ++ toString interval.toNat)
  | .write c v => some ("write " ++ channelText c ++ " " ++ toString v)
  | .writeBoth a b => some ("writeboth " ++ toString a ++ " " ++ toString b)
  | .latch => some "latch"
  | .shutdown => some "shutdown"
  | .pollFull => some "poll"
  | .pollSingle => some "poll"
  | .trigRise => some "trig+"
  | .trigFall => some "trig-"
  | .reset => some "reset"
  | .step => some "step"

end Sys2Proof.Machine
end

