-- ==== Sys2Proof/Machine/Status.lean ====
section
/-! DEFINITION. The numeric codes of the enumerations (rule R41) and the read-only status outputs (rule R184, decision D2):
views of the state that change nothing. -/

namespace Sys2Proof.Machine

open Sys2Proof

/-- Unconfigured 0, Ready 1, Halted 2 (rule R41). -/
def lifecycleCode : Lifecycle → Nat
  | .unconfigured => 0
  | .ready => 1
  | .halted => 2

/-- None 0, InvalidModel 1 (rules R41, R170). -/
def faultCode : FaultCode → Nat
  | .noFault => 0
  | .invalidModel => 1

/-- Idle 0, Sweeping 1 (rule R41). -/
def phaseCode : Phase → Nat
  | .idle => 0
  | .sweeping => 1

/-- Ascending 0, Descending 1 (rule R41). -/
def directionCode : Direction → Nat
  | .ascending => 0
  | .descending => 1

/-- What the status outputs show (rule R184). -/
structure StatusOutputs where
  lifecycle : Nat
  fault : Nat
  phase : Nat
  direction : Nat
  armed : Bool
  currentValue : Value
  deriving DecidableEq, Repr

/-- The status outputs of a state (rule R184). -/
def statusOf (s : State) : StatusOutputs :=
  { lifecycle := lifecycleCode s.lifecycle
    fault := faultCode s.fault
    phase := phaseCode s.phase
    direction := directionCode s.direction
    armed := s.armed
    currentValue := s.currentValue }

end Sys2Proof.Machine
end

