-- ==== Sys2Proof/Safety.lean ====
section
/-! DEFINITION. The terms claims are stated in: the conditions under which operations are served, quiescent points (rule
R17), the state invariants (rule R40) in a form every step keeps, what the block puts on the wire in whole transfers (rules
R52, R91), and the hazards whose premise lies outside the block (rules R207, R208). -/

namespace Sys2Proof.Safety

open Sys2Proof Sys2Proof.Machine

/-- `k` steps of the machine. -/
def run (k : Nat) (s : State) : Result := Host.Core.run core k s

/-- The block is Ready and `cfg` is its configuration (rule R21). -/
abbrev ReadyWith (s : State) (cfg : DacConfiguration) : Prop := s.lifecycle = .ready ∧ s.cfg = some cfg

/-- Commands are served: Ready, Idle, and no operation half executed (rules R17, R109). -/
abbrev Serving (s : State) (cfg : DacConfiguration) : Prop := ReadyWith s cfg ∧ s.phase = .idle ∧ s.work = []

/-- A quiescent point (rule R17). -/
abbrev Quiescent (s : State) : Prop :=
  s.lifecycle = .ready ∧ s.phase = .idle ∧ s.work = [] ∧ s.csN = true ∧ s.ldacN = true

/-- A STEP is what the sequencer does next: a sweep runs, its channel exists, no step is half executed (rule R144). -/
abbrev MidSweep (s : State) (cfg : DacConfiguration) : Prop :=
  ReadyWith s cfg ∧ s.phase = .sweeping ∧ s.work = [] ∧ channelExists cfg cfg.activeChannel = true

/-- What the wire shows of a state that has sent `es`: the trace and the DAC; the pins are said apart. -/
def sent (s : State) (es : List Event) : State :=
  { s with trace := s.trace ++ es, dac := s.dac.sees s.latchLine es }

/-- The level of `ldac_n` after a `LATCH()`: high after a pulse, as it was without a latch line. -/
def ldacAfterLatch (cfg : DacConfiguration) (level : Bool) : Bool := cfg.latchLinePresent || level

/-- The start endpoint (rule R40, I-e): 0 going up or `MAX` going down. -/
abbrev AtEndpoint (cfg : DacConfiguration) (v : Value) (d : Direction) : Prop :=
  (v = 0 ∧ d = .ascending) ∨ (v = maxValue cfg.resolutionBits ∧ d = .descending)

/-- Where the counter stands inside a sweep that has sent `index` values (rules R144, R152). -/
abbrev OnRamp (cfg : DacConfiguration) (index v : Value) (d : Direction) : Prop :=
  (index = 0 → AtEndpoint cfg v d) ∧
  (index ≠ 0 → d = .ascending → v.toNat + 1 = index.toNat) ∧
  (index ≠ 0 → d = .descending → v.toNat + index.toNat = (maxValue cfg.resolutionBits).toNat + 1)

/-- The invariants of rule R40 on the state between two operations, with what makes them inductive. -/
structure Waveform (s : State) : Prop where
  /-- I-c and I-f: outside Ready the waveform is at its reset values. -/
  notReady : s.lifecycle ≠ .ready →
    s.armed = false ∧ s.phase = .idle ∧ s.currentValue = 0 ∧ s.direction = .ascending
  /-- I-c: the counter stays in its range. -/
  inRange : ∀ cfg, ReadyWith s cfg → s.currentValue.toNat ≤ (maxValue cfg.resolutionBits).toNat
  /-- I-d: the step counter is 0 in Idle. -/
  idleIndex : s.phase = .idle → s.stepIndex = 0
  /-- I-d: only a Ready full-sweep block sweeps, and the step counter stays in its range. -/
  sweeping : s.phase = .sweeping →
    ∃ cfg, ReadyWith s cfg ∧ cfg.sweepPolicy = .fullSweepPerTrigger ∧
      s.stepIndex.toNat ≤ (maxValue cfg.resolutionBits).toNat ∧ OnRamp cfg s.stepIndex s.currentValue s.direction
  /-- I-e: a full-sweep block waits at an endpoint. -/
  endpoint : ∀ cfg, ReadyWith s cfg → cfg.sweepPolicy = .fullSweepPerTrigger → s.phase = .idle →
    AtEndpoint cfg s.currentValue s.direction

/-- The invariant of the machine: rule R40, with the waveform's part said of the state the operation in progress will
leave. -/
structure Inv (s : State) : Prop where
  /-- The build is a legal one (rule R6). -/
  build : s.build.wellFormed = true
  /-- I-a (rule R22). -/
  fault : s.fault = .invalidModel ↔ s.lifecycle = .halted
  /-- A configuration is held exactly while Ready (rules R21, R23). -/
  configured : s.lifecycle = .ready ↔ s.cfg.isSome = true
  /-- I-b: the active channel exists. -/
  channel : ∀ cfg, s.cfg = some cfg → channelExists cfg cfg.activeChannel = true
  /-- I-f: outside Ready no operation is in progress. -/
  workReady : s.lifecycle ≠ .ready → s.work = []
  /-- I-c to I-f. -/
  waveform : Waveform s.settle

/-! ### Sweeps and repetitions -/

/-- The data value of step `j` of a sweep: `j` going up, `MAX − j` going down (rule R145). -/
def sweepDatum (cfg : DacConfiguration) (d : Direction) (j : Nat) : Value :=
  match d with
  | .ascending => BitVec.ofNat 12 j
  | .descending => maxValue cfg.resolutionBits - BitVec.ofNat 12 j

/-- The events of the first `k` steps of a sweep (rule R145). -/
def sweepEvents (cfg : DacConfiguration) (d : Direction) (k : Nat) : List Event :=
  (List.range k).flatMap fun j => outputEvents cfg (sweepDatum cfg d j)

/-- The number of steps of a sweep, `2^N` (rule R7). -/
def sweepLength (cfg : DacConfiguration) : Nat := 2 ^ resolutionWidth cfg.resolutionBits

/-- The endpoint a sweep in this direction ends at (rule R145). -/
def farEndpoint (cfg : DacConfiguration) : Direction → Value
  | .ascending => maxValue cfg.resolutionBits
  | .descending => 0

/-- What a whole sweep leaves (rule R145): Idle at the other endpoint with the direction turned, its outputs on the wire,
everything else as it was. -/
def afterSweep (cfg : DacConfiguration) (s : State) : State :=
  { sent s (sweepEvents cfg s.direction (sweepLength cfg)) with
    phase := .idle
    stepIndex := 0
    currentValue := farEndpoint cfg s.direction
    direction := s.direction.flip
    csN := true
    ldacN := ldacAfterLatch cfg s.ldacN }

/-- An instruction executed `k` times. -/
def repeatExec (i : Instr) : Nat → State → Result
  | 0, s => .next s
  | k + 1, s =>
    match exec i s with
    | .next t => repeatExec i k t
    | .fault r => .fault r
    | .refused r => .refused r

/-- The triangle of rule R148: its value after `k` armed polls. -/
def triangle (mx k : Nat) : Nat := if k % (2 * mx) ≤ mx then k % (2 * mx) else 2 * mx - k % (2 * mx)

/-- The environment offers POLL and lets the sequencer serve it (rules R93, R95). -/
def pollMoves : List Move := [.present (bareCommand 0x6#4), .turn]

/-- The `trig` pin goes active, or inactive (rule R33). -/
def edge (b : Build) (active : Bool) : Move := .trigPin (b.triggerPolarity.active active)

/-- `n` edges in a row from the trigger level `a`, alternating (rule R33). -/
def edgesFrom (b : Build) : Bool → Nat → List Move
  | _, 0 => []
  | a, n + 1 => edge b (!a) :: edgesFrom b (!a) n

/-- The trigger level after `n` edges from the level `a`. -/
def levelAfter (a : Bool) (n : Nat) : Bool := if n % 2 = 0 then a else !a

/-- How many of `n` edges in a row from the level `a` are active ones. -/
def activeEdges (a : Bool) (n : Nat) : Nat := if a then n / 2 else (n + 1) / 2

/-- Turns of the sequencer, one for each number in the list, with that many edges before it. -/
def turnsWithEdges (b : Build) : Bool → List Nat → List Move
  | _, [] => []
  | a, n :: ns => edgesFrom b a n ++ .turn :: turnsWithEdges b (levelAfter a n) ns

/-! ### The wire in whole transfers -/

/-- The abbreviated events of rules R12 and R99: a whole frame, a whole pulse, a wait. -/
inductive Transfer where
  | frame (f : Frame)
  | pulse
  | wait (micros : Nat)
  deriving DecidableEq, Repr

/-- The events of a transfer (rule R12). -/
def Transfer.events : Transfer → List Event
  | .frame f => busSendEvents f
  | .pulse => [.latchLow, .latchHigh]
  | .wait t => [.wait t]

/-- The frames the block may send under its configuration (rule R91 (a) to (d)). Of the shutdown frame nothing is said of the
bits below the data field: they are those of `SHDN_DATA` (log entry 24). -/
def LegalFrame (b : Build) (cfg : DacConfiguration) (f : Frame) : Prop :=
  f = shutdownFrame b cfg ∨
    (f.getLsbD 12 = true ∧ f.getLsbD 14 = cfg.bufferInput ∧ f.getLsbD 13 = cfg.gainMode.ga ∧
      (f.getLsbD 15 = true → cfg.dualChannel = true) ∧
      ∀ i, i < 12 - resolutionWidth cfg.resolutionBits → f.getLsbD i = false)

/-- The pins as functions of the trace: high unless the last event on the line was the low one (rule R34). -/
abbrev PinsFollowTrace (s : State) : Prop :=
  s.csN = s.trace.foldl csAfter true ∧ s.ldacN = s.trace.foldl ldacAfter true

/-- The microseconds the waits of a trace take at least (rule R181). -/
def waitedMicros : List Event → Nat
  | [] => 0
  | .wait t :: es => t + waitedMicros es
  | _ :: es => waitedMicros es

/-- The premise of rule R207: the implementation holds the latch low at least `T_LATCH_MIN`. `Dac.closePulse` says what the
observer makes of a pulse, given whether it holds. -/
def latchHeldLongEnough (lowTime : Nat) : Bool := decide (Config.tLatchMin ≤ lowTime)

/-- The shortest time from one step of a sweep to the next (rule R208), all durations in the unit of `Config`. -/
def stepPeriod (pulse wait : Nat) : Nat := Config.tFrame + pulse + wait

end Sys2Proof.Safety
end

