-- ==== Sys2Proof/Certificates/Slice0/Obligations.lean ====
section
/-! DEFINITION. The statements for the provers. Each docstring names the rule of spec/ a statement formalises; where a rule
carries the spec's own mark of a decision or a derivation, the docstring says so. What a statement says of `State.dac` is
said of the observer (decision D22), which receives every frame (log entry 13) and finds every pulse long enough (log
entry 12). -/

open Sys2Proof Sys2Proof.Machine Sys2Proof.Safety

/-! ### Encodings -/

/-- Decoding the code of a well-formed instruction, in a mode its row belongs to, gives it back, whatever the build (rules
R90, R94, R95, R97; the command codes are decision D3). -/
def Obligations.DecodeOfEncodeIsIdentity : Prop :=
  ∀ (b : Build) (m : Mode) (i : Instr), i.wellFormed b = true → i.inMode m = true → decode b m (encode b i) = .ok i

/-- No bit of an accepted frame is dropped: encoding what a frame decodes to gives the frame back (rule R90). -/
def Obligations.EncodeOfDecodedFrameIsIdentity : Prop :=
  ∀ (b : Build) (n : Resolution) (f : Frame) (i : Instr), decodeFrame b n f = .ok i → encode b i = .frame f

/-- Words written out in the spec decode to what the spec says they are: frames of tables 2.1 and 2.3, the CONFIGURE of rule
R110's example, the commands of program P1, the transitions of rule R97. -/
def Obligations.WordsOfTheSpecDecode : Prop :=
  decode Build.standard ⟨.r12, .fullSweepPerTrigger⟩ (.frame 0x3123) = .ok (.frameWrite12 .A false .gain1x 0x123) ∧
  decode Build.standard ⟨.r10, .fullSweepPerTrigger⟩ (.frame 0xF554) = .ok (.frameWrite10 .B true .gain1x 0x155) ∧
  decode Build.standard ⟨.r8, .fullSweepPerTrigger⟩ (.frame 0x95A0) = .ok (.frameWrite8 .B false .gain2x 0x5A) ∧
  decode Build.standard ⟨.r12, .fullSweepPerTrigger⟩ (.frame 0x4000) = .ok (.frameShutdown true .gain2x) ∧
  decode Build.standard Mode.standard (.command { bareCommand 0x1 with cfgw := 0x019C, interval := 50 }) =
    .ok (.configure ⟨12, true, false, .gain1x, true, true, .fullSweepPerTrigger, .A⟩ 50) ∧
  decode Build.standard Mode.standard (.command { bareCommand 0x2 with chan := 1, valA := 0x0FFF }) =
    .ok (.write .B 0xFFF) ∧
  decode Build.standard Mode.standard (.command { bareCommand 0x3 with valA := 0x0123, valB := 0x0ABC }) =
    .ok (.writeBoth 0x123 0xABC) ∧
  decode Build.standard ⟨.r8, .fullSweepPerTrigger⟩ (.command (bareCommand 0x6)) = .ok .pollFull ∧
  decode Build.standard ⟨.r8, .singleStepPerPoll⟩ (.command (bareCommand 0x6)) = .ok .pollSingle ∧
  decode Build.standard Mode.standard (.trig 0b01) = .ok .trigRise ∧
  decode Build.standard Mode.standard (.trig 0b10) = .ok .trigFall

/-- Reserved command encodings (rule R96, decision D3) stand for no instruction: op 0x0 and 0x7 to 0xF, a reserved bit of
`cfgw`, channel B of a single-channel device; and the sequencer's turn refuses whatever stands for none (log entry 7). -/
def Obligations.ReservedCommandsRefused : Prop :=
  (∀ (b : Build) (m : Mode) (c : Command), c.op = 0x0 ∨ 7 ≤ c.op.toNat →
    decode b m (.command c) = .rejected .reservedOpcode) ∧
  (∀ (b : Build) (m : Mode) (c : Command), c.op = 0x1 → c.cfgw.extractLsb' 11 5 ≠ 0 →
    decode b m (.command c) = .rejected .reservedConfigBits) ∧
  (∀ (b : Build) (m : Mode) (c : Command), c.op = 0x1 → c.cfgw.extractLsb' 11 5 = 0 →
    c.cfgw.getLsbD 10 = true → c.cfgw.getLsbD 4 = false → decode b m (.command c) = .rejected .noChannelB) ∧
  (∀ (s : State) (c : Command) (e : DecodeError), s.script = [] → s.work = [] → s.phase = .idle → s.port = some c →
    decode s.build s.mode (.command c) = .rejected e → step s = .refused (.badEncoding e))

/-- Rule R87: the write frame has the pattern of its resolution, `c b g 1` and then the value's low `N` bits at the top of
the data field, zeros below. -/
def Obligations.WriteFrameHasItsLayout : Prop :=
  ∀ (cfg : DacConfiguration) (c : Channel) (v : Nat),
    writeFrame cfg c v =
      match cfg.resolutionBits with
      | .r12 => frameWord12 c cfg.bufferInput cfg.gainMode (BitVec.ofNat 12 v)
      | .r10 => frameWord10 c cfg.bufferInput cfg.gainMode (BitVec.ofNat 10 v)
      | .r8 => frameWord8 c cfg.bufferInput cfg.gainMode (BitVec.ofNat 8 v)

/-- Rule R85: the data is masked to `N` bits first and shifted by `12 − N` then, so that a value sends the frame of the
value modulo `2^N` and never spills into the flag bits. -/
def Obligations.DataIsMaskedThenShifted : Prop :=
  ∀ (cfg : DacConfiguration) (c : Channel) (v : Nat),
    ((writeFrame cfg c v).extractLsb' 0 12).toNat =
        (v % 2 ^ resolutionWidth cfg.resolutionBits) * 2 ^ (12 - resolutionWidth cfg.resolutionBits) ∧
    writeFrame cfg c v = writeFrame cfg c (v % 2 ^ resolutionWidth cfg.resolutionBits) ∧
    (writeFrame cfg c v).extractLsb' 12 4 = headerBits c.bit cfg.bufferInput cfg.gainMode.ga true

/-- Rule R83: bit 13 of every frame is 1 for Gain1x and 0 for Gain2x, the complement of the gain's numeric code. -/
def Obligations.GainFlagIsInverted : Prop :=
  ∀ (b : Build) (cfg : DacConfiguration) (c : Channel) (v : Nat),
    (writeFrame cfg c v).getLsbD 13 = decide (cfg.gainMode = .gain1x) ∧
    (shutdownFrame b cfg).getLsbD 13 = decide (cfg.gainMode = .gain1x) ∧
    cfg.gainMode.ga = !cfg.gainMode.code

/-- The active bit (rule R84; the DAC's register is the observer's, decision D22, and that it receives the frame is log entry
13): it is 1 in every frame of WRITE and 0 in the frame of SHUTDOWN, no instruction but SHUTDOWN and its frame row sends a
frame with the bit clear, and a WRITE after a SHUTDOWN sends its frame, with the bit set again, to the channel it addresses. -/
def Obligations.WriteAfterShutdownWakes : Prop :=
  (∀ (b : Build) (cfg : DacConfiguration) (c : Channel) (v : Nat),
    (writeFrame cfg c v).getLsbD 12 = true ∧ (shutdownFrame b cfg).getLsbD 12 = false) ∧
  (∀ (i : Instr) (s t : State), i ≠ .shutdown → (∀ buf gain, i ≠ .frameShutdown buf gain) → exec i s = .next t →
    ∃ ts : List Transfer, t.trace = s.trace ++ ts.flatMap Transfer.events ∧
      ∀ f, Transfer.frame f ∈ ts → f.getLsbD 12 = true) ∧
  (∀ (s : State) (cfg : DacConfiguration) (c : Channel) (v : Nat), Serving s cfg → (c = .A ∨ cfg.dualChannel = true) →
    ∃ u t, exec .shutdown s = .next u ∧ exec (.write c v) u = .next t ∧
      t.trace = s.trace ++ busSendEvents (shutdownFrame s.build cfg) ++ busSendEvents (writeFrame cfg c v) ∧
      (t.dac.input c).map (·.active) = some true)

/-- Law L4 of rule R112 (derived there): two WRITEs send the same frame exactly when their channels are equal and their
values congruent modulo `2^N`. -/
def Obligations.WriteFrameIsInjective : Prop :=
  ∀ (cfg : DacConfiguration) (c c' : Channel) (v v' : Nat),
    writeFrame cfg c v = writeFrame cfg c' v' ↔
      c = c' ∧ v % 2 ^ resolutionWidth cfg.resolutionBits = v' % 2 ^ resolutionWidth cfg.resolutionBits

/-- Law L2 of rule R112 (derived there): the same fraction of full scale gives the same frame at all three resolutions. -/
def Obligations.SameFractionSameFrame : Prop :=
  ∀ (c8 c10 c12 : DacConfiguration) (c : Channel) (v : Nat),
    c8.resolutionBits = .r8 → c10.resolutionBits = .r10 → c12.resolutionBits = .r12 →
    c10.bufferInput = c8.bufferInput → c12.bufferInput = c8.bufferInput →
    c10.gainMode = c8.gainMode → c12.gainMode = c8.gainMode →
    writeFrame c10 c (v <<< 2) = writeFrame c8 c v ∧ writeFrame c12 c (v <<< 4) = writeFrame c8 c v

/-! ### Reset and configuration -/

/-- The state at power-on (rule R39, which marks all but the waveform's values as the spec's decisions; the DAC's registers
are unknown, rule R66). The empty trace and the closed chip-select window are the model's choice (log entry 18).
`S.trigActive` is drawn and not spoken of (log entry 1). -/
def Obligations.PowerOnValues : Prop :=
  State.reset.lifecycle = .unconfigured ∧ State.reset.fault = .noFault ∧ State.reset.cfg = none ∧
  State.reset.phase = .idle ∧ State.reset.stepIndex = 0 ∧ State.reset.currentValue = 0 ∧
  State.reset.direction = .ascending ∧ State.reset.armed = false ∧ State.reset.csN = true ∧ State.reset.ldacN = true ∧
  State.reset.trace = [] ∧ State.reset.dac = Dac.unknown

/-- RESET, from every state (rule R200, decisions D25 and D30): the values of rule R39, `S.trigActive` and the trace
unchanged, the operation in progress abandoned; the DAC's registers are unchanged when both pins were high, and its input
registers always. The outputs after a pulse cut short are log entry 6; that a command waiting on the port stays there is the
model's choice, log entry 5, and that a RESET by a power cycle keeps the DAC's registers log entry 23. -/
def Obligations.ResetFromEveryState : Prop :=
  ∀ s : State, exec .reset s = .next
    { s with
      lifecycle := .unconfigured
      fault := .noFault
      cfg := none
      phase := .idle
      stepIndex := 0
      currentValue := 0
      direction := .ascending
      armed := false
      csN := true
      ldacN := true
      dac := s.dac.pinsForcedHigh s.ldacN
      work := [] } ∧
    (∀ c, (s.dac.pinsForcedHigh s.ldacN).input c = s.dac.input c) ∧
    (s.ldacN = true → ∀ c, (s.dac.pinsForcedHigh s.ldacN).output c = s.dac.output c)

/-- CONFIGURE with a supported resolution (rule R110, decisions D6, D10, D15, D18): the record holds the operands, `armed`
takes the pin's level under SingleStepPerPoll and stays otherwise, the block is Ready, and nothing is sent. -/
def Obligations.ConfigureMakesReady : Prop :=
  ∀ (s : State) (o : CfgOperand) (interval : BitVec 32) (n : Resolution),
    s.lifecycle = .unconfigured → s.phase = .idle → s.work = [] → (o.active = .A ∨ o.dual = true) →
    o.res.toNat = resolutionWidth n →
    exec (.configure o interval) s = .next
      { s with
        cfg := some
          { resolutionBits := n
            dualChannel := o.dual
            bufferInput := o.buf
            gainMode := o.gain
            autoLatchDual := o.auto
            latchLinePresent := o.latch
            sweepPolicy := o.policy
            activeChannel := o.active
            stepIntervalMicros := interval }
        armed := if o.policy = .singleStepPerPoll then s.trigActive else s.armed
        lifecycle := .ready }

/-- InvalidModel (rules R92, R170 and R21; decisions D11 and D21): a `res` of 0 to 7, 9, 11 or 13 to 15 raises it: the block
is Halted with the fault named, and no frame is built, no record held, nothing sent. -/
def Obligations.UnsupportedResolutionRaisesInvalidModel : Prop :=
  ∀ (s : State) (o : CfgOperand) (interval : BitVec 32),
    s.lifecycle = .unconfigured → s.phase = .idle → s.work = [] → (o.active = .A ∨ o.dual = true) →
    (o.res.toNat ≤ 7 ∨ o.res.toNat = 9 ∨ o.res.toNat = 11 ∨ 13 ≤ o.res.toNat) →
    exec (.configure o interval) s = .next { s with lifecycle := .halted, fault := .invalidModel }

/-- CONFIGURE is refused once the block is no longer Unconfigured, and for channel B of a single-channel device, whatever
the resolution asked for (rules R110, R173; decisions D7, D11). -/
def Obligations.ConfigureIsRefused : Prop :=
  (∀ (s : State) (o : CfgOperand) (interval : BitVec 32), s.lifecycle ≠ .unconfigured →
    exec (.configure o interval) s = .refused .notUnconfigured) ∧
  (∀ (s : State) (o : CfgOperand) (interval : BitVec 32), s.lifecycle = .unconfigured → o.active = .B → o.dual = false →
    exec (.configure o interval) s = .refused .noChannelB)

/-- Rule R171 (derived there): a halted block does nothing but RESET and follow its trigger pin, and the pin changes
`S.trigActive` alone. -/
def Obligations.HaltedBlockOnlyResets : Prop :=
  ∀ (i : Instr) (s t : State), s.lifecycle = .halted → exec i s = .next t →
    i = .reset ∨ ((i = .trigRise ∨ i = .trigFall) ∧ t = { s with trigActive := !s.trigActive })

/-- The configuration is written once and the build never (rules R6, R23, R70; decision D11): while a block is Ready no step
but RESET changes its record. -/
def Obligations.ConfigurationIsImmutable : Prop :=
  ∀ s t : State, step s = .next t →
    t.build = s.build ∧
    ∀ cfg, ReadyWith s cfg → t.cfg = some cfg ∨ (t.cfg = none ∧ s.script.head? = some .rst)

/-! ### The encoder -/

/-- WRITE (rule R111, decisions D4, D5, D7): one frame on the wire, chip-select high after it, everything else as it was. -/
def Obligations.WriteSendsOneFrame : Prop :=
  ∀ (s : State) (cfg : DacConfiguration) (c : Channel) (v : Nat), Serving s cfg → (c = .A ∨ cfg.dualChannel = true) →
    exec (.write c v) s = .next { sent s (busSendEvents (writeFrame cfg c v)) with csN := true }

/-- WRITEBOTH (rules R63, R113 and R114; decision D7) sends the frame for channel A, then the frame for channel B, then (if
`autoLatchDual`, and there is a latch line) the latch pulse, whatever the two values; nothing else changes. -/
def Obligations.WriteBothKeepsItsOrder : Prop :=
  ∀ (s : State) (cfg : DacConfiguration) (a b : Nat), Serving s cfg → cfg.dualChannel = true →
    exec (.writeBoth a b) s = .next
      { sent s (busSendEvents (writeFrame cfg .A a) ++ busSendEvents (writeFrame cfg .B b) ++
          if cfg.autoLatchDual = true ∧ cfg.latchLinePresent = true then [.latchLow, .latchHigh] else []) with
        csN := true
        ldacN := (cfg.autoLatchDual && cfg.latchLinePresent) || s.ldacN }

/-- LATCH (rule R114): a pulse where there is a latch line, otherwise a no-op and no refusal. -/
def Obligations.LatchPulsesOrDoesNothing : Prop :=
  ∀ (s : State) (cfg : DacConfiguration), Serving s cfg →
    exec .latch s = .next (if cfg.latchLinePresent then { sent s [.latchLow, .latchHigh] with ldacN := true } else s)

/-- SHUTDOWN (rule R115; the data bits, and on a dual-channel device the channel bit, are the build parameters of decision D8;
on a single-channel device bit 15 is 0, rule R25, log entry 21; `SHDN_DATA` is sent whole, log entry 24): one frame, no pulse, everything
else as it was. -/
def Obligations.ShutdownSendsOneFrame : Prop :=
  ∀ (s : State) (cfg : DacConfiguration), Serving s cfg →
    exec .shutdown s = .next
      { sent s (busSendEvents (frameWordShutdown (deviceBuild s.build cfg) cfg.bufferInput cfg.gainMode)) with csN := true }

/-- Rule R56: two identical operations are two sets of events; each of WRITE, WRITEBOTH, LATCH and SHUTDOWN, executed `n`
times, sends its events `n` times over. -/
def Obligations.RepeatedOperationsAreNotMerged : Prop :=
  ∀ (s : State) (cfg : DacConfiguration) (c : Channel) (v a b n : Nat), Serving s cfg →
    ((c = .A ∨ cfg.dualChannel = true) →
      ∃ t, repeatExec (.write c v) n s = .next t ∧
        t.trace = s.trace ++ (List.replicate n (busSendEvents (writeFrame cfg c v))).flatten) ∧
    (cfg.dualChannel = true →
      ∃ t, repeatExec (.writeBoth a b) n s = .next t ∧
        t.trace = s.trace ++ (List.replicate n
          (busSendEvents (writeFrame cfg .A a) ++ busSendEvents (writeFrame cfg .B b) ++
            if cfg.autoLatchDual = true ∧ cfg.latchLinePresent = true then [.latchLow, .latchHigh] else [])).flatten) ∧
    (∃ t, repeatExec .latch n s = .next t ∧
      t.trace = s.trace ++ (List.replicate n (if cfg.latchLinePresent then [.latchLow, .latchHigh] else [])).flatten) ∧
    (∃ t, repeatExec .shutdown n s = .next t ∧
      t.trace = s.trace ++ (List.replicate n (busSendEvents (shutdownFrame s.build cfg))).flatten)

/-- Rule R116 (derived there): a SHUTDOWN keeps the configured buffer and gain bits, and a WRITE after it sends exactly the
frame it would have sent before it. -/
def Obligations.ShutdownRoundTrip : Prop :=
  ∀ (s : State) (cfg : DacConfiguration) (c : Channel) (v : Nat), Serving s cfg → (c = .A ∨ cfg.dualChannel = true) →
    (shutdownFrame s.build cfg).extractLsb' 13 2 = (writeFrame cfg c v).extractLsb' 13 2 ∧
    ∃ u t w, exec .shutdown s = .next u ∧ exec (.write c v) u = .next t ∧ exec (.write c v) s = .next w ∧
      ∃ es, t.trace = u.trace ++ es ∧ w.trace = s.trace ++ es

/-- Rule R117 (derived there): what the encoder sends depends on the configuration and the operands alone, not on the
waveform, the flags, the pins or what was sent before. -/
def Obligations.EncoderIgnoresTheWaveform : Prop :=
  ∀ (i : Instr) (s s' t : State) (cfg : DacConfiguration),
    ((∃ c v, i = .write c v) ∨ (∃ a b, i = .writeBoth a b) ∨ i = .latch ∨ i = .shutdown) →
    Serving s cfg → Serving s' cfg → s'.build = s.build → exec i s = .next t →
    ∃ t' es, exec i s' = .next t' ∧ t.trace = s.trace ++ es ∧ t'.trace = s'.trace ++ es

/-- Where an instruction is refused by the condition on the lifecycle (rules R109, R171, R173, decision D11; for the frame
rows rule R91(e) as log entry 9 reads it): in every state that is not Ready, all but CONFIGURE, RESET and the trigger
edges. -/
def Obligations.OnlyReadyBlocksServe : Prop :=
  ∀ (i : Instr) (s : State), s.lifecycle ≠ .ready →
    (∀ o n, i ≠ .configure o n) → i ≠ .reset → i ≠ .trigRise → i ≠ .trigFall → exec i s = .refused .notReady

/-- Where a Ready block refuses a command: during a sweep all of them are held (rules R109(c), R146; decision D19; for POLL
under SingleStepPerPoll, which never sweeps, the model's choice, log entry 17); a single-channel device has no channel B
(rules R111, R113; decision D7); a POLL row belongs to one policy (rules R143, R147). -/
def Obligations.CommandsRefusedWhileReady : Prop :=
  (∀ (s : State) (cfg : DacConfiguration) (c : Channel) (v a b : Nat), ReadyWith s cfg → s.phase = .sweeping →
    exec (.write c v) s = .refused .held ∧ exec (.writeBoth a b) s = .refused .held ∧
    exec .latch s = .refused .held ∧ exec .shutdown s = .refused .held ∧
    (cfg.sweepPolicy = .fullSweepPerTrigger → exec .pollFull s = .refused .held) ∧
    (cfg.sweepPolicy = .singleStepPerPoll → exec .pollSingle s = .refused .held)) ∧
  (∀ (s : State) (cfg : DacConfiguration) (v a b : Nat), Serving s cfg → cfg.dualChannel = false →
    exec (.write .B v) s = .refused .noChannelB ∧ exec (.writeBoth a b) s = .refused .noChannelB) ∧
  (∀ (s : State) (cfg : DacConfiguration), ReadyWith s cfg →
    (cfg.sweepPolicy = .singleStepPerPoll → exec .pollFull s = .refused .wrongPolicy) ∧
    (cfg.sweepPolicy = .fullSweepPerTrigger → exec .pollSingle s = .refused .wrongPolicy) ∧
    (s.phase = .idle → exec .step s = .refused .notSweeping))

/-! ### Frames on the wire -/

/-- The three write-frame rows (rules R87, R88, R12): in a Ready block of the row's resolution, a frame with the configured
buffer and gain bits to a channel the device has is transferred whole, in one step (the model's choice, log entry 9). -/
def Obligations.WriteFrameRowsTransfer : Prop :=
  ∀ (s : State) (cfg : DacConfiguration) (c : Channel), ReadyWith s cfg → (c = .A ∨ cfg.dualChannel = true) →
    (cfg.resolutionBits = .r12 → ∀ d, exec (.frameWrite12 c cfg.bufferInput cfg.gainMode d) s =
      .next { sent s (busSendEvents (frameWord12 c cfg.bufferInput cfg.gainMode d)) with csN := true }) ∧
    (cfg.resolutionBits = .r10 → ∀ d, exec (.frameWrite10 c cfg.bufferInput cfg.gainMode d) s =
      .next { sent s (busSendEvents (frameWord10 c cfg.bufferInput cfg.gainMode d)) with csN := true }) ∧
    (cfg.resolutionBits = .r8 → ∀ d, exec (.frameWrite8 c cfg.bufferInput cfg.gainMode d) s =
      .next { sent s (busSendEvents (frameWord8 c cfg.bufferInput cfg.gainMode d)) with csN := true })

/-- The shutdown-frame row (rules R89, R25, R12; decisions D7 and D8; log entries 21 and 24), in one step (the model's choice, log entry 9). -/
def Obligations.ShutdownFrameRowTransfers : Prop :=
  ∀ (s : State) (cfg : DacConfiguration), ReadyWith s cfg →
    exec (.frameShutdown cfg.bufferInput cfg.gainMode) s =
      .next { sent s (busSendEvents (frameWordShutdown (deviceBuild s.build cfg) cfg.bufferInput cfg.gainMode)) with csN := true }

/-- Frames the block never sends have no meaning (rule R91, derived there): another resolution's layout, flag bits that are
not the configured ones, channel B of a single-channel device (a refusal is the model's reading, log entry 9). -/
def Obligations.FramesNeverSentAreRefused : Prop :=
  ∀ (s : State) (cfg : DacConfiguration) (c : Channel) (buf : Bool) (gain : GainMode), ReadyWith s cfg →
    (buf ≠ cfg.bufferInput ∨ gain ≠ cfg.gainMode →
      (∀ d, exec (.frameWrite12 c buf gain d) s = .refused .frameNeverSent) ∧
      (∀ d, exec (.frameWrite10 c buf gain d) s = .refused .frameNeverSent) ∧
      (∀ d, exec (.frameWrite8 c buf gain d) s = .refused .frameNeverSent) ∧
      exec (.frameShutdown buf gain) s = .refused .frameNeverSent) ∧
    (c = .B ∧ cfg.dualChannel = false →
      (∀ d, exec (.frameWrite12 c buf gain d) s = .refused .frameNeverSent) ∧
      (∀ d, exec (.frameWrite10 c buf gain d) s = .refused .frameNeverSent) ∧
      (∀ d, exec (.frameWrite8 c buf gain d) s = .refused .frameNeverSent)) ∧
    (cfg.resolutionBits ≠ .r12 → ∀ d, exec (.frameWrite12 c buf gain d) s = .refused .frameNeverSent) ∧
    (cfg.resolutionBits ≠ .r10 → ∀ d, exec (.frameWrite10 c buf gain d) s = .refused .frameNeverSent) ∧
    (cfg.resolutionBits ≠ .r8 → ∀ d, exec (.frameWrite8 c buf gain d) s = .refused .frameNeverSent)

/-- WRITE and SHUTDOWN do exactly what the frame rows they send do (the table's `sent_by` column; rules R90, R111, R115): the
frame built decodes, in the block's mode, to a row whose execution, the transfer that log entry 9 gives it, is the
operation's. -/
def Obligations.OperationsRunTheirFrameRows : Prop :=
  ∀ (s : State) (cfg : DacConfiguration) (c : Channel) (v : Nat), Serving s cfg → (c = .A ∨ cfg.dualChannel = true) →
    (∃ i, decode s.deviceBuild s.mode (.frame (writeFrame cfg c v)) = .ok i ∧ exec (.write c v) s = exec i s) ∧
    (∃ i, decode s.deviceBuild s.mode (.frame (shutdownFrame s.build cfg)) = .ok i ∧ exec .shutdown s = exec i s)

/-- Every instruction sends whole transfers only, frames the block may send among them (rules R52, R91, derived there; the bits
of a shutdown frame below the data field are log entry 24): each `CsLow` is followed by sixteen bits and `CsHigh` with nothing
between. -/
def Obligations.OnlyLegalWholeTransfers : Prop :=
  ∀ (i : Instr) (s t : State), exec i s = .next t →
    ∃ ts : List Transfer, t.trace = s.trace ++ ts.flatMap Transfer.events ∧
      ∀ f, Transfer.frame f ∈ ts → ∃ cfg, ReadyWith s cfg ∧ LegalFrame s.build cfg f

/-- On a single-channel device bit 15 of every frame is 0, whatever the build (rules R25, R81, R91(c); decision D7; of the
shutdown frame of a build with SHDN_CHANNEL 1, about which the spec's files disagree, log entry 21). -/
def Obligations.SingleChannelFramesNameChannelA : Prop :=
  ∀ (i : Instr) (s t : State) (cfg : DacConfiguration), ReadyWith s cfg → cfg.dualChannel = false → exec i s = .next t →
    ∃ ts : List Transfer, t.trace = s.trace ++ ts.flatMap Transfer.events ∧
      ∀ f, Transfer.frame f ∈ ts → f.getLsbD 15 = false

/-- Nothing is sent while the block is not Ready (rules R40 I-f, R91(e), derived there). -/
def Obligations.NothingSentUnlessReady : Prop :=
  ∀ s t : State, Inv s → s.lifecycle ≠ .ready → step s = .next t → t.trace = s.trace

/-- The trace only grows (rules R35, R62): whatever a step does, what was sent before stays in front of what it sends. -/
def Obligations.TraceOnlyGrows : Prop :=
  ∀ s t : State, step s = .next t → ∃ es, t.trace = s.trace ++ es

/-- The pins are functions of the trace at every sub-step, RESET apart (rule R34, decision D25). -/
def Obligations.PinsFollowTheTrace : Prop :=
  ∀ s t : State, PinsFollowTrace s → s.script.head? ≠ some .rst → step s = .next t → PinsFollowTrace t

/-! ### The DAC as observer -/

/-- What a WRITE makes of the DAC (rules R67 and R88; decision D22; that the DAC receives every frame is log entry 13): the
addressed channel's input register holds the frame's fields, its output too on a device without a latch line, and the other
channel is as it was. -/
def Obligations.WriteReachesTheDac : Prop :=
  ∀ (s t : State) (cfg : DacConfiguration) (c : Channel) (v : Nat), Serving s cfg → exec (.write c v) s = .next t →
    t.dac.input c = some
      { active := true
        buf := cfg.bufferInput
        gain1x := decide (cfg.gainMode = .gain1x)
        data12 := BitVec.ofNat 12
          ((v % 2 ^ resolutionWidth cfg.resolutionBits) * 2 ^ (12 - resolutionWidth cfg.resolutionBits)) } ∧
    t.dac.output c = (if cfg.latchLinePresent then s.dac.output c else t.dac.input c) ∧
    ∀ c', c' ≠ c → t.dac.input c' = s.dac.input c' ∧ t.dac.output c' = s.dac.output c'

/-- A latch pulse commits both channels together (rule R68; decision D22), the pulse being long enough (rule R207; log entry
12). -/
def Obligations.PulseCommitsBothChannels : Prop :=
  ∀ (s t : State) (cfg : DacConfiguration), Serving s cfg → cfg.latchLinePresent = true → exec .latch s = .next t →
    ∀ c, t.dac.output c = s.dac.input c ∧ t.dac.input c = s.dac.input c

/-- Both channels commit together at the end of a WRITEBOTH with `autoLatchDual` and a latch line, with the values just
sent; without `autoLatchDual` neither does (rules R68, R209); without a latch line each frame commits by itself (rules R67,
R113). The observer is decision D22; that it receives both frames is log entry 13, that the pulse is long enough log entry
12. -/
def Obligations.WriteBothCommitsTogether : Prop :=
  ∀ (s t : State) (cfg : DacConfiguration) (a b : Nat), Serving s cfg → exec (.writeBoth a b) s = .next t →
    t.dac.input .A = some (dacRegOfFrame (writeFrame cfg .A a)) ∧
    t.dac.input .B = some (dacRegOfFrame (writeFrame cfg .B b)) ∧
    (cfg.latchLinePresent = true → cfg.autoLatchDual = true →
      t.dac.output .A = t.dac.input .A ∧ t.dac.output .B = t.dac.input .B) ∧
    (cfg.latchLinePresent = true → cfg.autoLatchDual = false →
      t.dac.output .A = s.dac.output .A ∧ t.dac.output .B = s.dac.output .B) ∧
    (cfg.latchLinePresent = false →
      t.dac.output .A = t.dac.input .A ∧ t.dac.output .B = t.dac.input .B)

/-- The observer is a function of the trace (rule R66, decision D22), at every sub-step while a configuration is held. -/
def Obligations.ObserverIsAFunctionOfTheTrace : Prop :=
  ∀ (s t : State) (cfg : DacConfiguration), s.cfg = some cfg → t.cfg = some cfg →
    s.dac = Dac.ofTrace cfg.latchLinePresent s.trace → step s = .next t →
    t.dac = Dac.ofTrace cfg.latchLinePresent t.trace

/-! ### The trigger -/

/-- TRIG_RISE (rules R141, R175; decisions D16, D18): it sets `S.trigActive`, and `S.armed` exactly when the block is Ready;
nothing else changes, in any state, inside any operation; while the input is active it is not enabled. -/
def Obligations.ActiveEdgeArms : Prop :=
  (∀ s : State, s.trigActive = false →
    exec .trigRise s = .next { s with trigActive := true, armed := s.armed || decide (s.lifecycle = .ready) }) ∧
  (∀ s : State, s.trigActive = true → exec .trigRise s = .refused .edgesAlternate)

/-- TRIG_FALL (rules R142, R175; decisions D15, D16): it clears `S.trigActive`, and `S.armed` exactly in a Ready block under
SingleStepPerPoll; nothing else changes; while the input is inactive it is not enabled. -/
def Obligations.InactiveEdgeDisarmsSingleStep : Prop :=
  (∀ s : State, s.trigActive = true →
    (∀ cfg, ReadyWith s cfg → cfg.sweepPolicy = .singleStepPerPoll →
      exec .trigFall s = .next { s with trigActive := false, armed := false }) ∧
    (∀ cfg, ReadyWith s cfg → cfg.sweepPolicy = .fullSweepPerTrigger →
      exec .trigFall s = .next { s with trigActive := false }) ∧
    (s.lifecycle ≠ .ready → exec .trigFall s = .next { s with trigActive := false })) ∧
  (∀ s : State, s.trigActive = false → exec .trigFall s = .refused .edgesAlternate)

/-- The electrical level of the pin and the polarity say which edge it is (rules R33, R97; decision D16). -/
def Obligations.PolaritySaysWhichEdgeIsActive : Prop :=
  ∀ (s : State) (high : Bool) (rest : List Move), s.script = .trigPin high :: rest →
    (s.build.triggerPolarity = .rising → s.trigActive = false → high = true →
      step s = exec .trigRise { s with script := rest }) ∧
    (s.build.triggerPolarity = .rising → s.trigActive = true → high = false →
      step s = exec .trigFall { s with script := rest }) ∧
    (s.build.triggerPolarity = .falling → s.trigActive = false → high = false →
      step s = exec .trigRise { s with script := rest }) ∧
    (s.build.triggerPolarity = .falling → s.trigActive = true → high = true →
      step s = exec .trigFall { s with script := rest })

/-! ### The sequencer -/

/-- Rule R143: an armed POLL under FullSweepPerTrigger clears the flag and launches the sweep in one step; an unarmed one
changes nothing; neither sends anything; outside Ready, under the other policy and during a sweep it is refused. -/
def Obligations.PollFullTestsAndClears : Prop :=
  ∀ (s : State) (cfg : DacConfiguration),
    (Serving s cfg → cfg.sweepPolicy = .fullSweepPerTrigger → s.armed = true →
      exec .pollFull s = .next { s with armed := false, phase := .sweeping, stepIndex := 0 }) ∧
    (Serving s cfg → cfg.sweepPolicy = .fullSweepPerTrigger → s.armed = false → exec .pollFull s = .next s) ∧
    (s.lifecycle ≠ .ready → exec .pollFull s = .refused .notReady) ∧
    (ReadyWith s cfg → cfg.sweepPolicy ≠ .fullSweepPerTrigger → exec .pollFull s = .refused .wrongPolicy) ∧
    (ReadyWith s cfg → cfg.sweepPolicy = .fullSweepPerTrigger → s.phase ≠ .idle → exec .pollFull s = .refused .held)

/-- POLL under SingleStepPerPoll (rules R147, R150; decisions D12, D14): unarmed it changes nothing; armed it moves the
counter by one, turning at an endpoint, and sends the new value or, in the other order, the old one; either way the counter
and the direction after it are the same. -/
def Obligations.PollSingleAdvancesByOne : Prop :=
  ∀ (s : State) (cfg : DacConfiguration), Serving s cfg → cfg.sweepPolicy = .singleStepPerPoll →
    (s.armed = false → exec .pollSingle s = .next s) ∧
    (s.armed = true → (cfg.activeChannel = .A ∨ cfg.dualChannel = true) →
      ∀ (d : Direction) (v : Value),
        (s.direction = .ascending → s.currentValue = maxValue cfg.resolutionBits →
          d = .descending ∧ v = maxValue cfg.resolutionBits - 1) →
        (s.direction = .ascending → s.currentValue ≠ maxValue cfg.resolutionBits →
          d = .ascending ∧ v = s.currentValue + 1) →
        (s.direction = .descending → s.currentValue = 0 → d = .ascending ∧ v = 1) →
        (s.direction = .descending → s.currentValue ≠ 0 → d = .descending ∧ v = s.currentValue - 1) →
        exec .pollSingle s = .next
          { sent s (outputEvents cfg (if s.build.pollOrder = .advanceThenEmit then v else s.currentValue)) with
            direction := d
            currentValue := v
            csN := true
            ldacN := ldacAfterLatch cfg s.ldacN })

/-- STEP (rule R144, decisions D12, D13), on its ramp: it sends the counter, moved by one unless the step is the first, then
the pulse and the wait; the last step of a sweep turns the direction and goes back to Idle, every other one counts. -/
def Obligations.StepSendsAndCounts : Prop :=
  ∀ (s : State) (cfg : DacConfiguration) (v : Value), MidSweep s cfg →
    (s.stepIndex = 0 → v = s.currentValue ∧ AtEndpoint cfg v s.direction) →
    (s.stepIndex ≠ 0 → s.direction = .ascending →
      s.currentValue.toNat < (maxValue cfg.resolutionBits).toNat ∧ v = s.currentValue + 1) →
    (s.stepIndex ≠ 0 → s.direction = .descending →
      0 < s.currentValue.toNat ∧ s.currentValue.toNat ≤ (maxValue cfg.resolutionBits).toNat ∧ v = s.currentValue - 1) →
    (s.stepIndex = maxValue cfg.resolutionBits →
      exec .step s = .next
        { sent s (outputEvents cfg v) with
          currentValue := v
          direction := if s.direction = .ascending then .descending else .ascending
          phase := .idle
          stepIndex := 0
          csN := true
          ldacN := ldacAfterLatch cfg s.ldacN }) ∧
    (s.stepIndex ≠ maxValue cfg.resolutionBits →
      exec .step s = .next
        { sent s (outputEvents cfg v) with
          currentValue := v
          stepIndex := s.stepIndex + 1
          csN := true
          ldacN := ldacAfterLatch cfg s.ldacN })

/-- A sweep begun off its endpoint faults at its first STEP, and a STEP whose advance would leave `0 .. MAX` faults, with no
wrap, no clamp and no frame (rule R153, decision D26, U6). -/
def Obligations.StepLeavingItsRangeFaults : Prop :=
  ∀ (s : State) (cfg : DacConfiguration), ReadyWith s cfg → s.phase = .sweeping → s.work = [] →
    (s.stepIndex = 0 → ¬AtEndpoint cfg s.currentValue s.direction → exec .step s = .fault .sweepOffEndpoint) ∧
    (s.stepIndex ≠ 0 → s.direction = .ascending → (maxValue cfg.resolutionBits).toNat ≤ s.currentValue.toNat →
      exec .step s = .fault .advanceOutOfRange) ∧
    (s.stepIndex ≠ 0 → s.direction = .descending → s.currentValue = 0 → exec .step s = .fault .advanceOutOfRange) ∧
    (s.stepIndex ≠ 0 → s.direction = .descending →
      (maxValue cfg.resolutionBits).toNat + 1 < s.currentValue.toNat → exec .step s = .fault .advanceOutOfRange)

/-- A whole sweep (rule R145, derived there; decision D13): exactly `2^N` steps of the machine, step `j` sending `j` going up
and `MAX − j` going down, end Idle at the other endpoint with the direction turned; before the last the sweep is still
running. A command on the port and the armed flag are left as they were (rule R146). -/
def Obligations.FullSweepIsExact : Prop :=
  ∀ (s : State) (cfg : DacConfiguration), MidSweep s cfg → s.stepIndex = 0 →
    AtEndpoint cfg s.currentValue s.direction → s.script = [] →
    run (sweepLength cfg) s = .next (afterSweep cfg s) ∧
    ∀ k, k < sweepLength cfg →
      ∃ t, run k s = .next t ∧ t.phase = .sweeping ∧ t.stepIndex.toNat = k ∧
        t.trace = s.trace ++ sweepEvents cfg s.direction k

/-- A sweep always ends (rule R156, derived there): from any point of it that meets the invariant, between two steps, the
steps still owed bring the block to Idle; the pseudo-operation `sweep` (rule R100, decision D29) is exactly those steps, and a
command on the port still waits after them. -/
def Obligations.EverySweepEnds : Prop :=
  ∀ (s : State) (cfg : DacConfiguration), Inv s → s.cfg = some cfg → s.phase = .sweeping → s.work = [] →
    (s.script = [] →
      ∃ t, run (sweepLength cfg - s.stepIndex.toNat) s = .next t ∧ t.phase = .idle ∧ t.stepIndex = 0) ∧
    ∃ t, run (sweepLength cfg - s.stepIndex.toNat) { s with script := expandPseudo s .sweep } = .next t ∧
      t.phase = .idle ∧ t.stepIndex = 0 ∧ t.work = [] ∧ t.script = [] ∧ t.port = s.port

/-- A command presented during a sweep waits (rules R93, R146; decision D19): on the sequencer's turn the machine's step is
the sweep's next STEP, and no step of the machine takes the command off the port. That one may be presented, and waits, while
an operation is half executed, and stays across RESET, is the model's choice (log entry 5). -/
def Obligations.CommandsWaitForTheSweep : Prop :=
  (∀ (s : State) (rest : List Move), (s.script = .turn :: rest ∨ s.script = [] ∧ rest = []) → s.work = [] →
    s.phase = .sweeping → step s = exec .step { s with script := rest }) ∧
  (∀ (s t : State) (c : Command), s.port = some c → (s.work ≠ [] ∨ s.phase = .sweeping) → step s = .next t →
    t.port = some c) ∧
  (∀ (s t : State), s.port = none → (s.work ≠ [] ∨ s.phase = .sweeping) → step s = .next t →
    t.port = none ∨ ∃ c rest, s.script = .present c :: rest ∧ t = { s with port := some c, script := rest })

/-- The triangle of SingleStepPerPoll (rules R148 and R150, derived there; decision D14): after the `k`-th armed poll from
the reset values the counter is on the triangle of period `2·MAX`, and the values sent are the triangle's, in both orders of
the build. -/
def Obligations.ArmedPollsDrawTheTriangle : Prop :=
  ∀ (s : State) (cfg : DacConfiguration) (k : Nat), Serving s cfg → cfg.sweepPolicy = .singleStepPerPoll →
    (cfg.activeChannel = .A ∨ cfg.dualChannel = true) → s.armed = true → s.currentValue = 0 → s.direction = .ascending →
    0 < k →
    ∃ t, repeatExec .pollSingle k s = .next t ∧
      t.currentValue.toNat = triangle (maxValue cfg.resolutionBits).toNat k ∧
      (t.direction = .ascending ↔
        1 ≤ k % (2 * (maxValue cfg.resolutionBits).toNat) ∧
        k % (2 * (maxValue cfg.resolutionBits).toNat) ≤ (maxValue cfg.resolutionBits).toNat) ∧
      t.trace = s.trace ++ (List.range k).flatMap fun j =>
        outputEvents cfg (BitVec.ofNat 12 (triangle (maxValue cfg.resolutionBits).toNat
          (if s.build.pollOrder = .advanceThenEmit then j + 1 else j)))

/-- Pause and resume (rule R149, derived there): after the inactive edge any number of polls changes nothing and sends
nothing, and the next active edge gives back exactly the state before the pause. -/
def Obligations.PauseChangesNothing : Prop :=
  ∀ (s : State) (cfg : DacConfiguration) (n : Nat), Serving s cfg → cfg.sweepPolicy = .singleStepPerPoll →
    s.trigActive = true → s.armed = true →
    ∃ u, exec .trigFall s = .next u ∧ repeatExec .pollSingle n u = .next u ∧ exec .trigRise u = .next s

/-- Exactly one sweep per arm (rule R154, derived there): however many polls come before the edge and however many after the
sweep it launches, one edge gives one sweep, never zero and never two. -/
def Obligations.OneEdgeOneSweep : Prop :=
  ∀ (s : State) (cfg : DacConfiguration) (before after : Nat), Serving s cfg →
    cfg.sweepPolicy = .fullSweepPerTrigger → (cfg.activeChannel = .A ∨ cfg.dualChannel = true) → s.stepIndex = 0 →
    AtEndpoint cfg s.currentValue s.direction → s.armed = false → s.trigActive = false → s.port = none →
    run (2 * before + 1 + 2 + sweepLength cfg + 2 * after)
        { s with script :=
            (List.replicate before pollMoves).flatten ++ [edge s.build true] ++ pollMoves ++
              List.replicate (sweepLength cfg) .turn ++ (List.replicate after pollMoves).flatten } =
      .next { afterSweep cfg s with trigActive := true, script := [] }

/-- Edges during a sweep (rules R146(b), R212, derived from R141 and R143): any number of them, each before any of the `2^N`
turns, are one flag. With an active one among them, or armed already, the first poll after the sweep launches one further
sweep, from the other end, and the next poll launches none; with none, no further sweep at all. -/
def Obligations.EdgesDuringASweepCoalesce : Prop :=
  ∀ (s : State) (cfg : DacConfiguration) (counts : List Nat), MidSweep s cfg → cfg.sweepPolicy = .fullSweepPerTrigger →
    s.stepIndex = 0 → AtEndpoint cfg s.currentValue s.direction → s.port = none → counts.length = sweepLength cfg →
    ((s.armed = true ∨ 0 < activeEdges s.trigActive counts.sum) →
      run (counts.sum + sweepLength cfg + 2 + sweepLength cfg + 2)
          { s with script :=
              turnsWithEdges s.build s.trigActive counts ++ pollMoves ++ List.replicate (sweepLength cfg) .turn ++
                pollMoves } =
        .next { afterSweep cfg (afterSweep cfg s) with
          trigActive := levelAfter s.trigActive counts.sum
          armed := false
          script := [] }) ∧
    (s.armed = false → activeEdges s.trigActive counts.sum = 0 →
      run (counts.sum + sweepLength cfg + 2)
          { s with script := turnsWithEdges s.build s.trigActive counts ++ pollMoves } =
        .next { afterSweep cfg s with trigActive := levelAfter s.trigActive counts.sum, script := [] })

/-! ### Steps, sub-steps and invariants -/

/-- A step runs the decoded instruction (rules R9, R93, R97, R146), at each of the places one is taken from: the command
port, the frames left to send, the sweep, the `trig` pin and the `rst` input; `rest` is what the environment does after. How
that is held as data is the model's choice (log entries 4, 5, 8). -/
def Obligations.StepRunsTheDecodedInstruction : Prop :=
  (∀ (s : State) (rest : List Move) (c : Command) (i : Instr),
    (s.script = .turn :: rest ∨ s.script = [] ∧ rest = []) → s.work = [] → s.phase = .idle → s.port = some c →
    decode s.build s.mode (.command c) = .ok i → step s = exec i { s with script := rest, port := none }) ∧
  (∀ (s : State) (rest : List Move) (f : Frame) (ws : List SubStep) (i : Instr),
    (s.script = .turn :: rest ∨ s.script = [] ∧ rest = []) → s.work = .send f :: ws →
    decode s.deviceBuild s.mode (.frame f) = .ok i → step s = exec i { s with script := rest, work := ws }) ∧
  (∀ (s : State) (rest : List Move),
    (s.script = .turn :: rest ∨ s.script = [] ∧ rest = []) → s.work = [] → s.phase = .sweeping →
    step s = exec .step { s with script := rest }) ∧
  (∀ (s : State) (rest : List Move) (high : Bool) (i : Instr), s.script = .trigPin high :: rest →
    decode s.build s.mode (.trig (trigTransition s.build.triggerPolarity s.trigActive high)) = .ok i →
    step s = exec i { s with script := rest }) ∧
  (∀ (s : State) (rest : List Move), s.script = .rst :: rest → step s = exec .reset { s with script := rest })

/-- The atomic sub-steps of an operation add up to the operation (rules R8, R14, R58; decision D1): an instruction begun and
then run one sub-step at a time, with nothing between, ends where the instruction run whole ends (log entry 8). -/
def Obligations.SubStepsAddUpToTheOperation : Prop :=
  ∀ (i : Instr) (s u : State) (rest : List Move), s.work = [] → start i s = .next u →
    exec i s = .next u.settle ∧
    ∃ n, run n { u with script := List.replicate n .fine ++ rest } = .next { u.settle with script := rest }

/-- The placement of a trigger edge among the sub-steps of an operation makes no difference (rule R59, derived from R58 and
R141 to R147): the edge and the sub-step may be exchanged. -/
def Obligations.TriggerCommutesWithSubSteps : Prop :=
  ∀ (s : State) (high : Bool) (rest : List Move), s.work ≠ [] →
    run 2 { s with script := .fine :: .trigPin high :: rest } = run 2 { s with script := .trigPin high :: .fine :: rest }

/-- The state at power-on meets the invariant (rules R39, R40). -/
def Obligations.PowerOnMeetsTheInvariant : Prop := Inv State.reset

/-- The invariants of rule R40 (derived there), with the start-endpoint invariant among them, are kept by every step from
every state that meets them, whatever the environment does and wherever inside an operation it does it. -/
def Obligations.EveryStepKeepsTheInvariant : Prop :=
  ∀ s t : State, Inv s → step s = .next t → Inv t

/-! ### Status outputs -/

/-- What the status outputs show (rules R41 and R184; decisions D2 and D21): the numeric code of each enumeration, the flag
and the counter as they are, and so InvalidModel exactly while the block shows itself Halted. -/
def Obligations.StatusOutputsShowTheCodes : Prop :=
  ∀ s : State,
    ((statusOf s).lifecycle = 0 ↔ s.lifecycle = .unconfigured) ∧
    ((statusOf s).lifecycle = 1 ↔ s.lifecycle = .ready) ∧
    ((statusOf s).lifecycle = 2 ↔ s.lifecycle = .halted) ∧
    ((statusOf s).fault = 0 ↔ s.fault = .noFault) ∧
    ((statusOf s).fault = 1 ↔ s.fault = .invalidModel) ∧
    ((statusOf s).phase = 0 ↔ s.phase = .idle) ∧
    ((statusOf s).phase = 1 ↔ s.phase = .sweeping) ∧
    ((statusOf s).direction = 0 ↔ s.direction = .ascending) ∧
    ((statusOf s).direction = 1 ↔ s.direction = .descending) ∧
    (statusOf s).armed = s.armed ∧
    (statusOf s).currentValue = s.currentValue ∧
    (Inv s → ((statusOf s).fault = 1 ↔ (statusOf s).lifecycle = 2))

/-- What the status outputs show of a command (rules R41, R184 and R117; decisions D2 and D21): WRITE, WRITEBOTH, LATCH and
SHUTDOWN leave them as they were, and RESET brings every one of them to 0. -/
def Obligations.StatusOutputsFollowTheOperations : Prop :=
  (∀ (i : Instr) (s t : State),
    ((∃ c v, i = .write c v) ∨ (∃ a b, i = .writeBoth a b) ∨ i = .latch ∨ i = .shutdown) → exec i s = .next t →
    statusOf t = statusOf s) ∧
  (∀ s : State, ∃ t, exec .reset s = .next t ∧
    statusOf t = { lifecycle := 0, fault := 0, phase := 0, direction := 0, armed := false, currentValue := 0 })
end

