-- ==== Sys2Proof/Laws/Frames.lean ====
section
/-! SUPPORT. The frames bit by bit: the four flag bits, the data field and the bits below it, for the layout patterns of rule
R87 and for the frames the encoder builds (rules R88, R89). -/

namespace Sys2Proof.Machine

open Sys2Proof

/-! ### Codes of single bits -/

@[simp] theorem Channel_ofBit_bit (c : Channel) : Channel.ofBit c.bit = c := by cases c <;> rfl

@[simp] theorem Channel_bit_ofBit (b : Bool) : (Channel.ofBit b).bit = b := by cases b <;> rfl

@[simp] theorem GainMode_ofGa_ga (g : GainMode) : GainMode.ofGa g.ga = g := by cases g <;> rfl

@[simp] theorem GainMode_ga_ofGa (b : Bool) : (GainMode.ofGa b).ga = b := by cases b <;> rfl

@[simp] theorem GainMode_ofCode_code (g : GainMode) : GainMode.ofCode g.code = g := by cases g <;> rfl

@[simp] theorem SweepPolicy_ofCode_code (p : SweepPolicy) : SweepPolicy.ofCode p.code = p := by cases p <;> rfl

theorem Channel_bit_inj {c c' : Channel} (h : c.bit = c'.bit) : c = c' := by
  cases c <;> cases c' <;> first | rfl | cases h

/-! ### The layout patterns -/

theorem headerBits_getLsbD (ch buf ga act : Bool) (i : Nat) :
    (headerBits ch buf ga act).getLsbD i =
      ((decide (i = 0) && act) || (decide (i = 1) && ga) || (decide (i = 2) && buf) || (decide (i = 3) && ch)) := by
  match i with
  | 0 => revert ch buf ga act; decide
  | 1 => revert ch buf ga act; decide
  | 2 => revert ch buf ga act; decide
  | 3 => revert ch buf ga act; decide
  | n + 4 => simp

theorem frameWord12_getLsbD (ch : Channel) (buf : Bool) (gain : GainMode) (d : BitVec 12) (i : Nat) :
    (frameWord12 ch buf gain d).getLsbD i =
      if i < 12 then d.getLsbD i else (headerBits ch.bit buf gain.ga true).getLsbD (i - 12) :=
  BitVec.getLsbD_append

theorem frameWord10_getLsbD (ch : Channel) (buf : Bool) (gain : GainMode) (d : BitVec 10) (i : Nat) :
    (frameWord10 ch buf gain d).getLsbD i =
      if i < 2 then false else if i < 12 then d.getLsbD (i - 2)
      else (headerBits ch.bit buf gain.ga true).getLsbD (i - 12) := by
  have h := BitVec.getLsbD_append (x := headerBits ch.bit buf gain.ga true ++ d) (y := 0#2) (i := i)
  have h' := BitVec.getLsbD_append (x := headerBits ch.bit buf gain.ga true) (y := d) (i := i - 2)
  rw [show (frameWord10 ch buf gain d).getLsbD i = _ from h, h']
  by_cases h2 : i < 2
  · simp [h2]
  · by_cases h12 : i < 12
    · simp [h2, h12, show i - 2 < 10 by omega]
    · simp [h2, h12, show ¬i - 2 < 10 by omega, show i - 2 - 10 = i - 12 by omega]

theorem frameWord8_getLsbD (ch : Channel) (buf : Bool) (gain : GainMode) (d : BitVec 8) (i : Nat) :
    (frameWord8 ch buf gain d).getLsbD i =
      if i < 4 then false else if i < 12 then d.getLsbD (i - 4)
      else (headerBits ch.bit buf gain.ga true).getLsbD (i - 12) := by
  have h := BitVec.getLsbD_append (x := headerBits ch.bit buf gain.ga true ++ d) (y := 0#4) (i := i)
  have h' := BitVec.getLsbD_append (x := headerBits ch.bit buf gain.ga true) (y := d) (i := i - 4)
  rw [show (frameWord8 ch buf gain d).getLsbD i = _ from h, h']
  by_cases h2 : i < 4
  · simp [h2]
  · by_cases h12 : i < 12
    · simp [h2, h12, show i - 4 < 8 by omega]
    · simp [h2, h12, show ¬i - 4 < 8 by omega, show i - 4 - 8 = i - 12 by omega]

theorem frameWordShutdown_getLsbD (b : Build) (buf : Bool) (gain : GainMode) (i : Nat) :
    (frameWordShutdown b buf gain).getLsbD i =
      if i < 12 then b.shdnData.getLsbD i else (headerBits b.shdnChannel buf gain.ga false).getLsbD (i - 12) :=
  BitVec.getLsbD_append

/-! ### The frames the encoder builds -/

theorem bitFrame_getLsbD (b : Bool) (i : Nat) : (bitFrame b).getLsbD i = (decide (i = 0) && b) := by
  cases b <;> cases i <;> simp [bitFrame]

/-- The data field bit by bit: the value's low `N` bits at the top of bits 11..0 (rule R85). -/
theorem dataField_getLsbD (n : Resolution) (v i : Nat) :
    (dataField n v).getLsbD i =
      (decide (12 - resolutionWidth n ≤ i) && (decide (i < 12) && v.testBit (i - (12 - resolutionWidth n)))) := by
  have hw : resolutionWidth n ≤ 12 := by cases n <;> decide
  simp only [dataField, truncValue, BitVec.getLsbD_shiftLeft, BitVec.getLsbD_ofNat, Nat.testBit_mod_two_pow]
  by_cases h1 : 12 - resolutionWidth n ≤ i
  · by_cases h2 : i < 12
    · simp [h1, h2, show i < 16 by omega, show ¬i < 12 - resolutionWidth n by omega,
        show i - (12 - resolutionWidth n) < 16 by omega, show i - (12 - resolutionWidth n) < resolutionWidth n by omega]
    · simp [h2, show ¬i - (12 - resolutionWidth n) < resolutionWidth n by omega]
  · simp [h1, show i < 12 - resolutionWidth n by omega]

/-- A write frame bit by bit (rule R88). -/
theorem writeFrame_getLsbD (cfg : DacConfiguration) (c : Channel) (v i : Nat) :
    (writeFrame cfg c v).getLsbD i =
      if i < 12 then (dataField cfg.resolutionBits v).getLsbD i
      else (headerBits c.bit cfg.bufferInput cfg.gainMode.ga true).getLsbD (i - 12) := by
  simp only [writeFrame, BitVec.getLsbD_or, BitVec.getLsbD_shiftLeft, bitFrame_getLsbD, headerBits_getLsbD]
  by_cases h : i < 12
  · simp [h, show i < 15 by omega, show i < 14 by omega, show i < 13 by omega]
  · simp only [h, if_false, dataField_getLsbD]
    by_cases h16 : i < 16
    · have : i = 12 ∨ i = 13 ∨ i = 14 ∨ i = 15 := by omega
      rcases this with rfl | rfl | rfl | rfl <;> simp
    · simp [h16, show ¬i - 12 = 0 by omega, show ¬i - 12 = 1 by omega, show ¬i - 12 = 2 by omega, show ¬i - 12 = 3 by omega]

@[simp] theorem deviceBuild_shdnData (b : Build) (cfg : DacConfiguration) : (deviceBuild b cfg).shdnData = b.shdnData := rfl

@[simp] theorem deviceBuild_shdnChannel (b : Build) (cfg : DacConfiguration) :
    (deviceBuild b cfg).shdnChannel = (cfg.dualChannel && b.shdnChannel) := rfl

/-- A shutdown frame bit by bit (rule R89). -/
theorem shutdownFrame_getLsbD (b : Build) (cfg : DacConfiguration) (i : Nat) :
    (shutdownFrame b cfg).getLsbD i =
      if i < 12 then b.shdnData.getLsbD i
      else (headerBits (cfg.dualChannel && b.shdnChannel) cfg.bufferInput cfg.gainMode.ga false).getLsbD (i - 12) := by
  simp only [shutdownFrame, deviceBuild, BitVec.getLsbD_or, BitVec.getLsbD_shiftLeft, bitFrame_getLsbD, headerBits_getLsbD,
    BitVec.getLsbD_setWidth]
  by_cases h : i < 12
  · simp [h, show i < 15 by omega, show i < 14 by omega, show i < 13 by omega, show i < 16 by omega]
  · simp only [h, if_false]
    by_cases h16 : i < 16
    · have : i = 12 ∨ i = 13 ∨ i = 14 ∨ i = 15 := by omega
      rcases this with rfl | rfl | rfl | rfl <;> simp
    · simp [h16, show ¬i - 12 = 0 by omega, show ¬i - 12 = 1 by omega, show ¬i - 12 = 2 by omega,
        show ¬i - 12 = 3 by omega]

/-- The shutdown frame is the pattern of its row (rule R89). -/
theorem shutdownFrame_eq (b : Build) (cfg : DacConfiguration) :
    shutdownFrame b cfg = frameWordShutdown (deviceBuild b cfg) cfg.bufferInput cfg.gainMode := by
  apply BitVec.eq_of_getLsbD_eq
  intro i _
  rw [shutdownFrame_getLsbD, frameWordShutdown_getLsbD]
  rfl

/-- Bit 15 of the shutdown frame: `SHDN_CHANNEL` on a dual-channel device, 0 on a single-channel one (rules R25, R89). -/
theorem shutdownFrame_channel (b : Build) (cfg : DacConfiguration) :
    (shutdownFrame b cfg).getLsbD 15 = (cfg.dualChannel && b.shdnChannel) := by
  rw [shutdownFrame_getLsbD, headerBits_getLsbD]
  rfl

end Sys2Proof.Machine
end

