-- ==== Sys2Proof/Laws/State.lean ====
section
/-! SUPPORT. What the shared updates do to each field of the state: one lemma per field that an update leaves, tagged for
simp, so that no later proof unfolds an update to see it. -/

namespace Sys2Proof.Machine

open Sys2Proof

/-! ### One output event -/

@[simp] theorem emit_lifecycle (e : Event) (s : State) : (emit e s).lifecycle = s.lifecycle := rfl
@[simp] theorem emit_fault (e : Event) (s : State) : (emit e s).fault = s.fault := rfl
@[simp] theorem emit_cfg (e : Event) (s : State) : (emit e s).cfg = s.cfg := rfl
@[simp] theorem emit_phase (e : Event) (s : State) : (emit e s).phase = s.phase := rfl
@[simp] theorem emit_stepIndex (e : Event) (s : State) : (emit e s).stepIndex = s.stepIndex := rfl
@[simp] theorem emit_currentValue (e : Event) (s : State) : (emit e s).currentValue = s.currentValue := rfl
@[simp] theorem emit_direction (e : Event) (s : State) : (emit e s).direction = s.direction := rfl
@[simp] theorem emit_armed (e : Event) (s : State) : (emit e s).armed = s.armed := rfl
@[simp] theorem emit_trigActive (e : Event) (s : State) : (emit e s).trigActive = s.trigActive := rfl
@[simp] theorem emit_csN (e : Event) (s : State) : (emit e s).csN = csAfter s.csN e := rfl
@[simp] theorem emit_ldacN (e : Event) (s : State) : (emit e s).ldacN = ldacAfter s.ldacN e := rfl
@[simp] theorem emit_trace (e : Event) (s : State) : (emit e s).trace = s.trace ++ [e] := rfl
@[simp] theorem emit_dac (e : Event) (s : State) : (emit e s).dac = s.dac.observe s.latchLine e := rfl
@[simp] theorem emit_work (e : Event) (s : State) : (emit e s).work = s.work := rfl
@[simp] theorem emit_port (e : Event) (s : State) : (emit e s).port = s.port := rfl
@[simp] theorem emit_script (e : Event) (s : State) : (emit e s).script = s.script := rfl
@[simp] theorem emit_build (e : Event) (s : State) : (emit e s).build = s.build := rfl
@[simp] theorem emit_latchLine (e : Event) (s : State) : (emit e s).latchLine = s.latchLine := rfl

/-! ### Several output events -/

@[simp] theorem emitAll_lifecycle (es : List Event) (s : State) : (emitAll es s).lifecycle = s.lifecycle := by
  induction es generalizing s with
  | nil => rfl
  | cons e es ih => exact ih (emit e s)
@[simp] theorem emitAll_fault (es : List Event) (s : State) : (emitAll es s).fault = s.fault := by
  induction es generalizing s with
  | nil => rfl
  | cons e es ih => exact ih (emit e s)
@[simp] theorem emitAll_cfg (es : List Event) (s : State) : (emitAll es s).cfg = s.cfg := by
  induction es generalizing s with
  | nil => rfl
  | cons e es ih => exact ih (emit e s)
@[simp] theorem emitAll_phase (es : List Event) (s : State) : (emitAll es s).phase = s.phase := by
  induction es generalizing s with
  | nil => rfl
  | cons e es ih => exact ih (emit e s)
@[simp] theorem emitAll_stepIndex (es : List Event) (s : State) : (emitAll es s).stepIndex = s.stepIndex := by
  induction es generalizing s with
  | nil => rfl
  | cons e es ih => exact ih (emit e s)
@[simp] theorem emitAll_currentValue (es : List Event) (s : State) : (emitAll es s).currentValue = s.currentValue := by
  induction es generalizing s with
  | nil => rfl
  | cons e es ih => exact ih (emit e s)
@[simp] theorem emitAll_direction (es : List Event) (s : State) : (emitAll es s).direction = s.direction := by
  induction es generalizing s with
  | nil => rfl
  | cons e es ih => exact ih (emit e s)
@[simp] theorem emitAll_armed (es : List Event) (s : State) : (emitAll es s).armed = s.armed := by
  induction es generalizing s with
  | nil => rfl
  | cons e es ih => exact ih (emit e s)
@[simp] theorem emitAll_trigActive (es : List Event) (s : State) : (emitAll es s).trigActive = s.trigActive := by
  induction es generalizing s with
  | nil => rfl
  | cons e es ih => exact ih (emit e s)
@[simp] theorem emitAll_work (es : List Event) (s : State) : (emitAll es s).work = s.work := by
  induction es generalizing s with
  | nil => rfl
  | cons e es ih => exact ih (emit e s)
@[simp] theorem emitAll_port (es : List Event) (s : State) : (emitAll es s).port = s.port := by
  induction es generalizing s with
  | nil => rfl
  | cons e es ih => exact ih (emit e s)
@[simp] theorem emitAll_script (es : List Event) (s : State) : (emitAll es s).script = s.script := by
  induction es generalizing s with
  | nil => rfl
  | cons e es ih => exact ih (emit e s)
@[simp] theorem emitAll_build (es : List Event) (s : State) : (emitAll es s).build = s.build := by
  induction es generalizing s with
  | nil => rfl
  | cons e es ih => exact ih (emit e s)

/-! ### One sub-step -/

@[simp] theorem runSub_lifecycle (w : SubStep) (s : State) : (runSub w s).lifecycle = s.lifecycle := by
  cases w <;> simp [runSub]
@[simp] theorem runSub_fault (w : SubStep) (s : State) : (runSub w s).fault = s.fault := by
  cases w <;> simp [runSub]
@[simp] theorem runSub_cfg (w : SubStep) (s : State) : (runSub w s).cfg = s.cfg := by
  cases w <;> simp [runSub]
@[simp] theorem runSub_armed (w : SubStep) (s : State) : (runSub w s).armed = s.armed := by
  cases w <;> simp [runSub]
@[simp] theorem runSub_trigActive (w : SubStep) (s : State) : (runSub w s).trigActive = s.trigActive := by
  cases w <;> simp [runSub]
@[simp] theorem runSub_work (w : SubStep) (s : State) : (runSub w s).work = s.work := by
  cases w <;> simp [runSub]
@[simp] theorem runSub_port (w : SubStep) (s : State) : (runSub w s).port = s.port := by
  cases w <;> simp [runSub]
@[simp] theorem runSub_script (w : SubStep) (s : State) : (runSub w s).script = s.script := by
  cases w <;> simp [runSub]
@[simp] theorem runSub_build (w : SubStep) (s : State) : (runSub w s).build = s.build := by
  cases w <;> simp [runSub]

/-! ### Several sub-steps -/

@[simp] theorem runSubs_lifecycle (ws : List SubStep) (s : State) : (runSubs ws s).lifecycle = s.lifecycle := by
  induction ws generalizing s with
  | nil => rfl
  | cons w ws ih => exact (ih (runSub w s)).trans (runSub_lifecycle w s)
@[simp] theorem runSubs_fault (ws : List SubStep) (s : State) : (runSubs ws s).fault = s.fault := by
  induction ws generalizing s with
  | nil => rfl
  | cons w ws ih => exact (ih (runSub w s)).trans (runSub_fault w s)
@[simp] theorem runSubs_cfg (ws : List SubStep) (s : State) : (runSubs ws s).cfg = s.cfg := by
  induction ws generalizing s with
  | nil => rfl
  | cons w ws ih => exact (ih (runSub w s)).trans (runSub_cfg w s)
@[simp] theorem runSubs_armed (ws : List SubStep) (s : State) : (runSubs ws s).armed = s.armed := by
  induction ws generalizing s with
  | nil => rfl
  | cons w ws ih => exact (ih (runSub w s)).trans (runSub_armed w s)
@[simp] theorem runSubs_trigActive (ws : List SubStep) (s : State) : (runSubs ws s).trigActive = s.trigActive := by
  induction ws generalizing s with
  | nil => rfl
  | cons w ws ih => exact (ih (runSub w s)).trans (runSub_trigActive w s)
@[simp] theorem runSubs_work (ws : List SubStep) (s : State) : (runSubs ws s).work = s.work := by
  induction ws generalizing s with
  | nil => rfl
  | cons w ws ih => exact (ih (runSub w s)).trans (runSub_work w s)
@[simp] theorem runSubs_port (ws : List SubStep) (s : State) : (runSubs ws s).port = s.port := by
  induction ws generalizing s with
  | nil => rfl
  | cons w ws ih => exact (ih (runSub w s)).trans (runSub_port w s)
@[simp] theorem runSubs_script (ws : List SubStep) (s : State) : (runSubs ws s).script = s.script := by
  induction ws generalizing s with
  | nil => rfl
  | cons w ws ih => exact (ih (runSub w s)).trans (runSub_script w s)
@[simp] theorem runSubs_build (ws : List SubStep) (s : State) : (runSubs ws s).build = s.build := by
  induction ws generalizing s with
  | nil => rfl
  | cons w ws ih => exact (ih (runSub w s)).trans (runSub_build w s)

/-! ### The operation in progress completed -/

@[simp] theorem settle_lifecycle (s : State) : s.settle.lifecycle = s.lifecycle := by simp [State.settle]
@[simp] theorem settle_fault (s : State) : s.settle.fault = s.fault := by simp [State.settle]
@[simp] theorem settle_cfg (s : State) : s.settle.cfg = s.cfg := by simp [State.settle]
@[simp] theorem settle_armed (s : State) : s.settle.armed = s.armed := by simp [State.settle]
@[simp] theorem settle_trigActive (s : State) : s.settle.trigActive = s.trigActive := by simp [State.settle]
@[simp] theorem settle_work (s : State) : s.settle.work = [] := by simp [State.settle]
@[simp] theorem settle_port (s : State) : s.settle.port = s.port := by simp [State.settle]
@[simp] theorem settle_script (s : State) : s.settle.script = s.script := by simp [State.settle]
@[simp] theorem settle_build (s : State) : s.settle.build = s.build := by simp [State.settle]

/-! ### The exception, the interrupt, the reset -/

@[simp] theorem raiseInvalidModel_lifecycle (s : State) : (raiseInvalidModel s).lifecycle = .halted := rfl
@[simp] theorem raiseInvalidModel_fault (s : State) : (raiseInvalidModel s).fault = .invalidModel := rfl
@[simp] theorem raiseInvalidModel_cfg (s : State) : (raiseInvalidModel s).cfg = s.cfg := rfl
@[simp] theorem raiseInvalidModel_phase (s : State) : (raiseInvalidModel s).phase = s.phase := rfl
@[simp] theorem raiseInvalidModel_stepIndex (s : State) : (raiseInvalidModel s).stepIndex = s.stepIndex := rfl
@[simp] theorem raiseInvalidModel_currentValue (s : State) : (raiseInvalidModel s).currentValue = s.currentValue := rfl
@[simp] theorem raiseInvalidModel_direction (s : State) : (raiseInvalidModel s).direction = s.direction := rfl
@[simp] theorem raiseInvalidModel_armed (s : State) : (raiseInvalidModel s).armed = s.armed := rfl
@[simp] theorem raiseInvalidModel_trigActive (s : State) : (raiseInvalidModel s).trigActive = s.trigActive := rfl
@[simp] theorem raiseInvalidModel_csN (s : State) : (raiseInvalidModel s).csN = s.csN := rfl
@[simp] theorem raiseInvalidModel_ldacN (s : State) : (raiseInvalidModel s).ldacN = s.ldacN := rfl
@[simp] theorem raiseInvalidModel_trace (s : State) : (raiseInvalidModel s).trace = s.trace := rfl
@[simp] theorem raiseInvalidModel_dac (s : State) : (raiseInvalidModel s).dac = s.dac := rfl
@[simp] theorem raiseInvalidModel_work (s : State) : (raiseInvalidModel s).work = s.work := rfl
@[simp] theorem raiseInvalidModel_port (s : State) : (raiseInvalidModel s).port = s.port := rfl
@[simp] theorem raiseInvalidModel_script (s : State) : (raiseInvalidModel s).script = s.script := rfl
@[simp] theorem raiseInvalidModel_build (s : State) : (raiseInvalidModel s).build = s.build := rfl

@[simp] theorem takeTrigger_lifecycle (l a : Bool) (s : State) : (takeTrigger l a s).lifecycle = s.lifecycle := rfl
@[simp] theorem takeTrigger_fault (l a : Bool) (s : State) : (takeTrigger l a s).fault = s.fault := rfl
@[simp] theorem takeTrigger_cfg (l a : Bool) (s : State) : (takeTrigger l a s).cfg = s.cfg := rfl
@[simp] theorem takeTrigger_phase (l a : Bool) (s : State) : (takeTrigger l a s).phase = s.phase := rfl
@[simp] theorem takeTrigger_stepIndex (l a : Bool) (s : State) : (takeTrigger l a s).stepIndex = s.stepIndex := rfl
@[simp] theorem takeTrigger_currentValue (l a : Bool) (s : State) : (takeTrigger l a s).currentValue = s.currentValue := rfl
@[simp] theorem takeTrigger_direction (l a : Bool) (s : State) : (takeTrigger l a s).direction = s.direction := rfl
@[simp] theorem takeTrigger_armed (l a : Bool) (s : State) : (takeTrigger l a s).armed = a := rfl
@[simp] theorem takeTrigger_trigActive (l a : Bool) (s : State) : (takeTrigger l a s).trigActive = l := rfl
@[simp] theorem takeTrigger_csN (l a : Bool) (s : State) : (takeTrigger l a s).csN = s.csN := rfl
@[simp] theorem takeTrigger_ldacN (l a : Bool) (s : State) : (takeTrigger l a s).ldacN = s.ldacN := rfl
@[simp] theorem takeTrigger_trace (l a : Bool) (s : State) : (takeTrigger l a s).trace = s.trace := rfl
@[simp] theorem takeTrigger_dac (l a : Bool) (s : State) : (takeTrigger l a s).dac = s.dac := rfl
@[simp] theorem takeTrigger_work (l a : Bool) (s : State) : (takeTrigger l a s).work = s.work := rfl
@[simp] theorem takeTrigger_port (l a : Bool) (s : State) : (takeTrigger l a s).port = s.port := rfl
@[simp] theorem takeTrigger_script (l a : Bool) (s : State) : (takeTrigger l a s).script = s.script := rfl
@[simp] theorem takeTrigger_build (l a : Bool) (s : State) : (takeTrigger l a s).build = s.build := rfl

@[simp] theorem resetState_lifecycle (s : State) : (resetState s).lifecycle = .unconfigured := rfl
@[simp] theorem resetState_fault (s : State) : (resetState s).fault = .noFault := rfl
@[simp] theorem resetState_cfg (s : State) : (resetState s).cfg = none := rfl
@[simp] theorem resetState_phase (s : State) : (resetState s).phase = .idle := rfl
@[simp] theorem resetState_stepIndex (s : State) : (resetState s).stepIndex = 0 := rfl
@[simp] theorem resetState_currentValue (s : State) : (resetState s).currentValue = 0 := rfl
@[simp] theorem resetState_direction (s : State) : (resetState s).direction = .ascending := rfl
@[simp] theorem resetState_armed (s : State) : (resetState s).armed = false := rfl
@[simp] theorem resetState_trigActive (s : State) : (resetState s).trigActive = s.trigActive := rfl
@[simp] theorem resetState_csN (s : State) : (resetState s).csN = true := rfl
@[simp] theorem resetState_ldacN (s : State) : (resetState s).ldacN = true := rfl
@[simp] theorem resetState_trace (s : State) : (resetState s).trace = s.trace := rfl
@[simp] theorem resetState_dac (s : State) : (resetState s).dac = s.dac.pinsForcedHigh s.ldacN := rfl
@[simp] theorem resetState_work (s : State) : (resetState s).work = [] := rfl
@[simp] theorem resetState_port (s : State) : (resetState s).port = s.port := rfl
@[simp] theorem resetState_script (s : State) : (resetState s).script = s.script := rfl
@[simp] theorem resetState_build (s : State) : (resetState s).build = s.build := rfl

/-! ### A frame put in front -/

@[simp] theorem pushFrame_lifecycle (f : Frame) (s : State) : (pushFrame f s).lifecycle = s.lifecycle := rfl
@[simp] theorem pushFrame_fault (f : Frame) (s : State) : (pushFrame f s).fault = s.fault := rfl
@[simp] theorem pushFrame_cfg (f : Frame) (s : State) : (pushFrame f s).cfg = s.cfg := rfl
@[simp] theorem pushFrame_phase (f : Frame) (s : State) : (pushFrame f s).phase = s.phase := rfl
@[simp] theorem pushFrame_stepIndex (f : Frame) (s : State) : (pushFrame f s).stepIndex = s.stepIndex := rfl
@[simp] theorem pushFrame_currentValue (f : Frame) (s : State) : (pushFrame f s).currentValue = s.currentValue := rfl
@[simp] theorem pushFrame_direction (f : Frame) (s : State) : (pushFrame f s).direction = s.direction := rfl
@[simp] theorem pushFrame_armed (f : Frame) (s : State) : (pushFrame f s).armed = s.armed := rfl
@[simp] theorem pushFrame_trigActive (f : Frame) (s : State) : (pushFrame f s).trigActive = s.trigActive := rfl
@[simp] theorem pushFrame_csN (f : Frame) (s : State) : (pushFrame f s).csN = s.csN := rfl
@[simp] theorem pushFrame_ldacN (f : Frame) (s : State) : (pushFrame f s).ldacN = s.ldacN := rfl
@[simp] theorem pushFrame_trace (f : Frame) (s : State) : (pushFrame f s).trace = s.trace := rfl
@[simp] theorem pushFrame_dac (f : Frame) (s : State) : (pushFrame f s).dac = s.dac := rfl
@[simp] theorem pushFrame_work (f : Frame) (s : State) : (pushFrame f s).work = .send f :: s.work := rfl
@[simp] theorem pushFrame_port (f : Frame) (s : State) : (pushFrame f s).port = s.port := rfl
@[simp] theorem pushFrame_script (f : Frame) (s : State) : (pushFrame f s).script = s.script := rfl
@[simp] theorem pushFrame_build (f : Frame) (s : State) : (pushFrame f s).build = s.build := rfl

/-! ### What has been sent -/

@[simp] theorem sent_lifecycle (s : State) (es : List Event) : (Safety.sent s es).lifecycle = s.lifecycle := rfl
@[simp] theorem sent_fault (s : State) (es : List Event) : (Safety.sent s es).fault = s.fault := rfl
@[simp] theorem sent_cfg (s : State) (es : List Event) : (Safety.sent s es).cfg = s.cfg := rfl
@[simp] theorem sent_phase (s : State) (es : List Event) : (Safety.sent s es).phase = s.phase := rfl
@[simp] theorem sent_stepIndex (s : State) (es : List Event) : (Safety.sent s es).stepIndex = s.stepIndex := rfl
@[simp] theorem sent_currentValue (s : State) (es : List Event) : (Safety.sent s es).currentValue = s.currentValue := rfl
@[simp] theorem sent_direction (s : State) (es : List Event) : (Safety.sent s es).direction = s.direction := rfl
@[simp] theorem sent_armed (s : State) (es : List Event) : (Safety.sent s es).armed = s.armed := rfl
@[simp] theorem sent_trigActive (s : State) (es : List Event) : (Safety.sent s es).trigActive = s.trigActive := rfl
@[simp] theorem sent_csN (s : State) (es : List Event) : (Safety.sent s es).csN = s.csN := rfl
@[simp] theorem sent_ldacN (s : State) (es : List Event) : (Safety.sent s es).ldacN = s.ldacN := rfl
@[simp] theorem sent_trace (s : State) (es : List Event) : (Safety.sent s es).trace = s.trace ++ es := rfl
@[simp] theorem sent_dac (s : State) (es : List Event) : (Safety.sent s es).dac = s.dac.sees s.latchLine es := rfl
@[simp] theorem sent_work (s : State) (es : List Event) : (Safety.sent s es).work = s.work := rfl
@[simp] theorem sent_port (s : State) (es : List Event) : (Safety.sent s es).port = s.port := rfl
@[simp] theorem sent_script (s : State) (es : List Event) : (Safety.sent s es).script = s.script := rfl
@[simp] theorem sent_build (s : State) (es : List Event) : (Safety.sent s es).build = s.build := rfl

@[simp] theorem sent_latchLine (s : State) (es : List Event) : (Safety.sent s es).latchLine = s.latchLine := rfl

end Sys2Proof.Machine
end

