-- ==== Sys2Proof/Laws/Wire.lean ====
section
/-! SUPPORT. What a run of output events does to the state, said once for whole transfers: a frame, a latch pulse, a wait. -/

namespace Sys2Proof.Machine

open Sys2Proof Sys2Proof.Safety

/-! ### The observer over a list -/

@[simp] theorem sees_nil (l : Bool) (d : Dac) : d.sees l [] = d := rfl

@[simp] theorem sees_cons (l : Bool) (d : Dac) (e : Event) (es : List Event) :
    d.sees l (e :: es) = (d.observe l e).sees l es := rfl

theorem sees_append (l : Bool) (d : Dac) (es fs : List Event) : d.sees l (es ++ fs) = (d.sees l es).sees l fs :=
  List.foldl_append

/-! ### Sending -/

@[simp] theorem sent_nil (s : State) : sent s [] = s := by simp [sent]

theorem sent_sent (s : State) (es fs : List Event) : sent (sent s es) fs = sent s (es ++ fs) := by
  simp [sent, sees_append, State.latchLine]

/-- Everything a list of events does. -/
theorem emitAll_eq (es : List Event) (s : State) :
    emitAll es s = { sent s es with csN := es.foldl csAfter s.csN, ldacN := es.foldl ldacAfter s.ldacN } := by
  induction es generalizing s with
  | nil => simp [emitAll]
  | cons e es ih => simp [emitAll, ih, sent, emit, State.latchLine]

theorem emitAll_append (es fs : List Event) (s : State) : emitAll (es ++ fs) s = emitAll fs (emitAll es s) := by
  induction es generalizing s with
  | nil => rfl
  | cons e es ih => exact ih (emit e s)

theorem runSubs_append (us ws : List SubStep) (s : State) : runSubs (us ++ ws) s = runSubs ws (runSubs us s) := by
  induction us generalizing s with
  | nil => rfl
  | cons w us ih => exact ih (runSub w s)

@[simp] theorem runSubs_emits (es : List Event) (s : State) : runSubs (es.map .emit) s = emitAll es s := by
  induction es generalizing s with
  | nil => rfl
  | cons e es ih => exact ih (emit e s)

/-! ### The pins over a transfer -/

theorem csAfter_bits (bs : List Bool) (level : Bool) : (bs.map Event.bit).foldl csAfter level = level := by
  induction bs with
  | nil => rfl
  | cons b bs ih => exact ih

theorem ldacAfter_bits (bs : List Bool) (level : Bool) : (bs.map Event.bit).foldl ldacAfter level = level := by
  induction bs with
  | nil => rfl
  | cons b bs ih => exact ih

@[simp] theorem csAfter_busSend (f : Frame) (level : Bool) : (busSendEvents f).foldl csAfter level = true := by
  simp [busSendEvents, busSendTail, csAfter_bits, List.foldl_append, csAfter]

@[simp] theorem ldacAfter_busSend (f : Frame) (level : Bool) : (busSendEvents f).foldl ldacAfter level = level := by
  simp only [busSendEvents, busSendTail, List.foldl_cons, List.foldl_append, ldacAfter_bits]
  rfl

@[simp] theorem csAfter_latch (cfg : DacConfiguration) (level : Bool) : (latchEvents cfg).foldl csAfter level = level := by
  unfold latchEvents; split <;> rfl

@[simp] theorem ldacAfter_latch (cfg : DacConfiguration) (level : Bool) :
    (latchEvents cfg).foldl ldacAfter level = ldacAfterLatch cfg level := by
  unfold latchEvents ldacAfterLatch
  cases cfg.latchLinePresent <;> rfl

@[simp] theorem csAfter_delay (cfg : DacConfiguration) (level : Bool) : (delayEvents cfg).foldl csAfter level = level := rfl

@[simp] theorem ldacAfter_delay (cfg : DacConfiguration) (level : Bool) : (delayEvents cfg).foldl ldacAfter level = level := rfl

/-! ### A frame at the observer -/

theorem frameBits_length (f : Frame) : (frameBits f).length = 16 := by simp [frameBits]

/-- The observer reads back the frame that was sent, most significant bit first (rule R51). -/
theorem frameOfBits_frameBits (f : Frame) : frameOfBits (frameBits f) = f := by
  have h : frameBits f = [f.getLsbD 15, f.getLsbD 14, f.getLsbD 13, f.getLsbD 12, f.getLsbD 11, f.getLsbD 10,
      f.getLsbD 9, f.getLsbD 8, f.getLsbD 7, f.getLsbD 6, f.getLsbD 5, f.getLsbD 4, f.getLsbD 3, f.getLsbD 2,
      f.getLsbD 1, f.getLsbD 0] := by
    simp [frameBits, List.range, List.range.loop, BitVec.getMsbD]
  rw [h]
  have hb : ∀ (b : Bool) (i : Nat), (bitFrame b).getLsbD i = (decide (i = 0) && b) := by
    intro b i
    cases b <;> cases i <;> simp [bitFrame]
  ext i hi
  simp only [frameOfBits, List.foldl_cons, List.foldl_nil, ← BitVec.getLsbD_eq_getElem, BitVec.getLsbD_or,
    BitVec.getLsbD_shiftLeft, hb]
  interval_cases i <;> simp

theorem sees_bits (l : Bool) (d : Dac) (bs cs : List Bool) (h : d.window = some cs) :
    d.sees l (bs.map Event.bit) = { d with window := some (cs ++ bs) } := by
  induction bs generalizing d cs with
  | nil => cases d; simp_all
  | cons b bs ih => simp [Dac.observe, h, ih _ (cs ++ [b])]

@[simp] theorem receive_window (l : Bool) (f : Frame) (d : Dac) : (d.receive l f).window = d.window := by
  unfold Dac.receive; cases Channel.ofBit (f.getLsbD 15) <;> rfl

theorem receive_any_window (l : Bool) (f : Frame) (d : Dac) (w : Option (List Bool)) :
    { ({ d with window := w }).receive l f with window := none } = { d.receive l f with window := none } := by
  unfold Dac.receive; cases Channel.ofBit (f.getLsbD 15) <;> rfl

/-- What the DAC makes of one whole frame (rule R67). -/
theorem sees_busSend (l : Bool) (d : Dac) (f : Frame) :
    d.sees l (busSendEvents f) = { d.receive l f with window := none } := by
  simp only [busSendEvents, busSendTail, sees_cons, sees_append]
  rw [sees_bits l _ (frameBits f) [] rfl]
  simp only [Dac.observe, List.nil_append, sees_nil, frameBits_length, frameOfBits_frameBits, if_true]
  exact receive_any_window l f d _

/-! ### Whole transfers -/

theorem emitAll_busSend (f : Frame) (s : State) :
    emitAll (busSendEvents f) s = { sent s (busSendEvents f) with csN := true } := by
  rw [emitAll_eq]; simp

theorem emitAll_latch (cfg : DacConfiguration) (s : State) :
    emitAll (latchEvents cfg) s = { sent s (latchEvents cfg) with ldacN := ldacAfterLatch cfg s.ldacN } := by
  rw [emitAll_eq]; simp

theorem emitAll_delay (cfg : DacConfiguration) (s : State) : emitAll (delayEvents cfg) s = sent s (delayEvents cfg) := by
  rw [emitAll_eq]; rfl

/-- The sub-steps of one output of a ramp are its events. -/
theorem runSubs_output (cfg : DacConfiguration) (v : Value) (s : State) :
    runSubs (outputSubs cfg v) s =
      { sent s (outputEvents cfg v) with csN := true, ldacN := ldacAfterLatch cfg s.ldacN } := by
  simp only [outputSubs, writeSubs, latchSubs, delaySubs, runSubs_append, runSubs, runSub, runSubs_emits]
  rw [← emitAll_append, ← emitAll_append, emitAll_eq]
  simp [outputEvents, List.foldl_append]

end Sys2Proof.Machine
end

