-- ==== Sys2Proof/Laws/Ops.lean ====
section
/-! SUPPORT. Everything each shared operation can do: the enabling conditions, running an operation whole, the refusal of
`require`, and that completing an operation neither reads nor writes what the trigger and the environment write. -/

namespace Sys2Proof.Machine

open Sys2Proof Sys2Proof.Safety

/-! ### Enabling conditions -/

theorem whenReady_of {s : State} {cfg : DacConfiguration} (h : ReadyWith s cfg) (k : DacConfiguration → Result) :
    s.whenReady k = k cfg := by
  simp [State.whenReady, h.1, h.2]

/-- `whenReady` answers next only in a Ready state, through its continuation. -/
theorem whenReady_next {s t : State} {k : DacConfiguration → Result} (h : s.whenReady k = .next t) :
    ∃ cfg, ReadyWith s cfg ∧ k cfg = .next t := by
  unfold State.whenReady at h
  split at h
  · next hl hc => exact ⟨_, ⟨hl, hc⟩, h⟩
  · cases h

theorem whenReady_not {s : State} (h : s.lifecycle ≠ .ready) (k : DacConfiguration → Result) :
    s.whenReady k = .refused .notReady := by
  unfold State.whenReady
  split
  · next hl _ => exact absurd hl h
  · rfl

theorem whenFree_of {s : State} (hw : s.work = []) (hp : s.phase = .idle) (k : Result) : s.whenFree k = k := by
  simp [State.whenFree, hw, hp]

/-- `whenFree` answers next only between two commands. -/
theorem whenFree_next {s t : State} {k : Result} (h : s.whenFree k = .next t) :
    s.work = [] ∧ s.phase = .idle ∧ k = .next t := by
  unfold State.whenFree at h
  split at h
  · next hc => exact ⟨hc.1, hc.2, h⟩
  · cases h

theorem whenFree_not {s : State} (h : ¬(s.work = [] ∧ s.phase = .idle)) (k : Result) :
    s.whenFree k = .refused .held := by
  simp [State.whenFree, h]

@[simp] theorem require_true (r : Refusal) (k : Result) : require true r k = k := rfl

@[simp] theorem require_false (r : Refusal) (k : Result) : require false r k = .refused r := rfl

/-- `require` answers next only when its condition holds. -/
theorem require_next {c : Bool} {r : Refusal} {k : Result} {t : State} (h : require c r k = .next t) :
    c = true ∧ k = .next t := by
  cases c
  · cases h
  · exact ⟨rfl, h⟩

/-! ### Running an operation whole -/

@[simp] theorem complete_next_eq (s : State) : complete (.next s) = .next s.settle := rfl

@[simp] theorem complete_refused (r : Refusal) : complete (.refused r) = .refused r := rfl

@[simp] theorem complete_fault (r : Fault) : complete (.fault r) = .fault r := rfl

/-- An operation run whole answers next only when its start does, with the rest of it done. -/
theorem complete_next {r : Result} {t : State} (h : complete r = .next t) : ∃ u, r = .next u ∧ t = u.settle := by
  cases r with
  | next u => exact ⟨u, rfl, by cases h; rfl⟩
  | fault f => cases h
  | refused f => cases h

@[simp] theorem settle_of_idle {s : State} (h : s.work = []) : s.settle = s := by
  cases s; simp_all [State.settle, runSubs]

/-! ### The counter of a sweep -/

/-- `startsAtEndpoint` is the start-endpoint condition of rule R153. -/
theorem startsAtEndpoint_iff (cfg : DacConfiguration) (d : Direction) (v : Value) :
    startsAtEndpoint (maxValue cfg.resolutionBits) d v = true ↔ AtEndpoint cfg v d := by
  cases d <;> simp [startsAtEndpoint, AtEndpoint]

/-- Everything a sweep step can send: the start endpoint on the first step, a neighbour of the counter inside the range on
every other. -/
theorem sweepValue_ok {mx index v w : Value} {d : Direction} (h : sweepValue mx index d v = .ok w) :
    (index = 0 ∧ startsAtEndpoint mx d v = true ∧ w = v) ∨
    (index ≠ 0 ∧ d = .ascending ∧ v.toNat + 1 ≤ mx.toNat ∧ w = v + 1) ∨
    (index ≠ 0 ∧ d = .descending ∧ 0 < v.toNat ∧ v.toNat - 1 ≤ mx.toNat ∧ w = v - 1) := by
  unfold sweepValue at h
  by_cases hi : index = 0
  · rw [if_pos hi] at h
    split at h
    · next hs => cases h; exact .inl ⟨hi, hs, rfl⟩
    · cases h
  · rw [if_neg hi] at h
    cases d
    · dsimp only at h
      split at h
      · next hb => cases h; exact .inr (.inl ⟨hi, rfl, hb, rfl⟩)
      · cases h
    · dsimp only at h
      split at h
      · next hb => cases h; exact .inr (.inr ⟨hi, rfl, hb.1, hb.2, rfl⟩)
      · cases h

/-! ### What completing an operation does not see -/

/-- The fields the trigger and the environment write: no sub-step reads or writes one (rules R58, R59). -/
def withInputs (trig armed : Bool) (port : Option Command) (script : List Move) (s : State) : State :=
  { s with trigActive := trig, armed := armed, port := port, script := script }

theorem emit_withInputs (e : Event) (tr ar : Bool) (p : Option Command) (sc : List Move) (s : State) :
    emit e (withInputs tr ar p sc s) = withInputs tr ar p sc (emit e s) := rfl

theorem emitAll_withInputs (es : List Event) (tr ar : Bool) (p : Option Command) (sc : List Move) (s : State) :
    emitAll es (withInputs tr ar p sc s) = withInputs tr ar p sc (emitAll es s) := by
  induction es generalizing s with
  | nil => rfl
  | cons e es ih => simp only [emitAll, emit_withInputs, ih]

theorem runSub_withInputs (w : SubStep) (tr ar : Bool) (p : Option Command) (sc : List Move) (s : State) :
    runSub w (withInputs tr ar p sc s) = withInputs tr ar p sc (runSub w s) := by
  cases w with
  | send f => exact emitAll_withInputs _ tr ar p sc s
  | emit e => rfl
  | setValue v => rfl
  | setDirection d => rfl
  | setPhase q => rfl
  | setStepIndex n => rfl

theorem runSubs_withInputs (ws : List SubStep) (tr ar : Bool) (p : Option Command) (sc : List Move) (s : State) :
    runSubs ws (withInputs tr ar p sc s) = withInputs tr ar p sc (runSubs ws s) := by
  induction ws generalizing s with
  | nil => rfl
  | cons w ws ih => simp only [runSubs, runSub_withInputs, ih]

theorem settle_withInputs (tr ar : Bool) (p : Option Command) (sc : List Move) (s : State) :
    (withInputs tr ar p sc s).settle = withInputs tr ar p sc s.settle :=
  runSubs_withInputs s.work tr ar p sc { s with work := [] }

/-- Sub-steps never look at what is left of the operation. -/
theorem runSub_withWork (w : SubStep) (ws : List SubStep) (s : State) :
    runSub w { s with work := ws } = { runSub w s with work := ws } := by
  cases w with
  | send f => simp only [runSub, emitAll_eq]; rfl
  | emit e => rfl
  | setValue v => rfl
  | setDirection d => rfl
  | setPhase q => rfl
  | setStepIndex n => rfl

theorem runSubs_withWork (us ws : List SubStep) (s : State) :
    runSubs us { s with work := ws } = { runSubs us s with work := ws } := by
  induction us generalizing s with
  | nil => rfl
  | cons u us ih => simp only [runSubs, runSub_withWork, ih]

/-- Completing an operation after its first sub-step is completing it. -/
theorem settle_after_sub {s : State} {w : SubStep} {ws : List SubStep} (h : s.work = w :: ws) :
    (runSub w { s with work := ws }).settle = s.settle := by
  simp only [State.settle, h, runSubs, runSub_work, ← runSub_withWork]

/-- Beginning to send a frame does not change what completing the operation gives. -/
theorem settle_after_csLow {s : State} {f : Frame} {ws : List SubStep} (h : s.work = .send f :: ws) :
    (emit .csLow { s with work := (busSendTail f).map .emit ++ ws }).settle = s.settle := by
  simp only [State.settle, h, runSubs, emit_work, runSubs_append, runSubs_emits, runSub]
  rfl

end Sys2Proof.Machine
end

