-- ==== Sys2Proof/Laws/PerInstr.lean ====
section
/-! SUPPORT. Statements made per instruction: what the decoder answers is well-formed and of the mode it was read in (rules
R90, R96, R98). -/

namespace Sys2Proof.Laws

open Sys2Proof

/-- Whatever code `i` was read from, in whatever build and mode, `i` is well-formed in that build and a row of that mode. -/
def DecodesWellFormed.Statement (i : Instr) : Prop :=
  ∀ (b : Build) (m : Mode) (c : Code), decode b m c = .ok i → i.wellFormed b = true ∧ i.inMode m = true

/-- A packed word that is an operand names a channel the device has. -/
theorem cfgFields_wellFormed {w : BitVec 16} (h : cfgError w = none) : (cfgFields w).wellFormed = true := by
  unfold cfgError at h
  split at h
  · cases h
  · split at h
    · assumption
    · cases h

theorem decodeFrame_wellFormed {b : Build} {m : Mode} {f : Frame} {i : Instr} (h : decodeFrame b m.res f = .ok i) :
    i.wellFormed b = true ∧ i.inMode m = true := by
  unfold decodeFrame at h
  dsimp only at h
  split at h
  · split at h
    · next hm => cases h; simp [Instr.wellFormed, Instr.inMode, hm]
    · next hm => split at h <;> cases h; simp [Instr.wellFormed, Instr.inMode, hm]
    · next hm => split at h <;> cases h; simp [Instr.wellFormed, Instr.inMode, hm]
  · split at h <;> cases h; simp [Instr.wellFormed, Instr.inMode]

theorem decodeCommand_wellFormed {b : Build} {m : Mode} {c : Command} {i : Instr}
    (h : decodeCommand b m.policy c = .ok i) : i.wellFormed b = true ∧ i.inMode m = true := by
  unfold decodeCommand at h
  split at h
  · split at h
    · next ho => cases h; exact ⟨cfgFields_wellFormed ho, rfl⟩
    · cases h
  split at h
  · split at h <;> cases h; exact ⟨‹_›, rfl⟩
  split at h
  · split at h <;> cases h; exact ⟨‹_›, rfl⟩
  split at h
  · cases h; exact ⟨rfl, rfl⟩
  split at h
  · cases h; exact ⟨rfl, rfl⟩
  split at h
  · split at h
    · next hp => cases h; simp [Instr.wellFormed, Instr.inMode, hp]
    · next hp => cases h; simp [Instr.wellFormed, Instr.inMode, hp]
  · cases h

/-- The decoder answers only well-formed instructions of its mode. -/
theorem decode_wellFormed (i : Instr) : DecodesWellFormed.Statement i := by
  intro b m c h
  cases c with
  | frame f => exact decodeFrame_wellFormed h
  | command c => exact decodeCommand_wellFormed h
  | trig t =>
    simp only [decode, decodeTrig] at h
    split at h
    · cases h; exact ⟨rfl, rfl⟩
    · split at h <;> cases h; exact ⟨rfl, rfl⟩
  | rst r =>
    simp only [decode, decodeRst] at h
    split at h <;> cases h; exact ⟨rfl, rfl⟩
  | internal p =>
    simp only [decode, decodeInternal] at h
    split at h <;> cases h; exact ⟨rfl, rfl⟩

theorem DecodesWellFormed.frameWrite12 (ch : Channel) (buf : Bool) (gain : GainMode) (data : BitVec 12) :
    DecodesWellFormed.Statement (.frameWrite12 ch buf gain data) := decode_wellFormed _

theorem DecodesWellFormed.frameWrite10 (ch : Channel) (buf : Bool) (gain : GainMode) (data : BitVec 10) :
    DecodesWellFormed.Statement (.frameWrite10 ch buf gain data) := decode_wellFormed _

theorem DecodesWellFormed.frameWrite8 (ch : Channel) (buf : Bool) (gain : GainMode) (data : BitVec 8) :
    DecodesWellFormed.Statement (.frameWrite8 ch buf gain data) := decode_wellFormed _

theorem DecodesWellFormed.frameShutdown (buf : Bool) (gain : GainMode) :
    DecodesWellFormed.Statement (.frameShutdown buf gain) := decode_wellFormed _

theorem DecodesWellFormed.configure (o : CfgOperand) (interval : BitVec 32) :
    DecodesWellFormed.Statement (.configure o interval) := decode_wellFormed _

theorem DecodesWellFormed.write (c : Channel) (v : Nat) : DecodesWellFormed.Statement (.write c v) := decode_wellFormed _

theorem DecodesWellFormed.writeBoth (a b : Nat) : DecodesWellFormed.Statement (.writeBoth a b) := decode_wellFormed _

theorem DecodesWellFormed.latch : DecodesWellFormed.Statement .latch := decode_wellFormed _

theorem DecodesWellFormed.shutdown : DecodesWellFormed.Statement .shutdown := decode_wellFormed _

theorem DecodesWellFormed.pollFull : DecodesWellFormed.Statement .pollFull := decode_wellFormed _

theorem DecodesWellFormed.pollSingle : DecodesWellFormed.Statement .pollSingle := decode_wellFormed _

theorem DecodesWellFormed.trigRise : DecodesWellFormed.Statement .trigRise := decode_wellFormed _

theorem DecodesWellFormed.trigFall : DecodesWellFormed.Statement .trigFall := decode_wellFormed _

theorem DecodesWellFormed.reset : DecodesWellFormed.Statement .reset := decode_wellFormed _

theorem DecodesWellFormed.step : DecodesWellFormed.Statement .step := decode_wellFormed _

end Sys2Proof.Laws
end

