-- ==== Sys2Proof/Tests/Slice0.lean ====
section
/-! SUPPORT. The model's own tests. Expected values come from the spec's tables (95_test_vectors.md) and examples, named in
each group; a test about several fields compares those fields only. The second half holds a witness for the hypotheses of
every obligation that has some. -/

namespace Sys2Proof.Tests

open Sys2Proof Sys2Proof.Machine Sys2Proof.Safety

/-! ### States the tests start from -/

/-- `cfgw` 0x0008, `interval` 10: 8-bit, single channel, no latch line, full sweep (table 2.4 row 1). -/
def cfg8 : DacConfiguration := ⟨.r8, false, false, .gain1x, false, false, .fullSweepPerTrigger, .A, 10⟩

/-- `cfgw` 0x0208, `interval` 5: the same device under SingleStepPerPoll (table 2.6). -/
def cfg8single : DacConfiguration := ⟨.r8, false, false, .gain1x, false, false, .singleStepPerPoll, .A, 5⟩

/-- `cfgw` 0x057A, `interval` 100: 10-bit, dual, buffered, 2x, latch line, active B (table 2.4 row 4). -/
def cfg10 : DacConfiguration := ⟨.r10, true, true, .gain2x, false, true, .fullSweepPerTrigger, .B, 100⟩

/-- `cfgw` 0x019C, `interval` 50: 12-bit, dual, 1x, auto, latch line (rule R110's example). -/
def cfg12 : DacConfiguration := ⟨.r12, true, false, .gain1x, true, true, .fullSweepPerTrigger, .A, 50⟩

/-- Power-on with the trigger inactive. -/
def blank : State := { State.reset with trigActive := false }

/-- After a successful CONFIGURE. -/
def ready (cfg : DacConfiguration) : State := { blank with lifecycle := .ready, cfg := some cfg }

/-- After an InvalidModel. -/
def halted : State := { blank with lifecycle := .halted, fault := .invalidModel }

/-- In a sweep, before step `index`. -/
def sweepAt (cfg : DacConfiguration) (index v : Value) (d : Direction) : State :=
  { ready cfg with phase := .sweeping, stepIndex := index, currentValue := v, direction := d }

/-- Idle, with a waveform state and the trigger active and armed. -/
def armedAt (cfg : DacConfiguration) (v : Value) (d : Direction) : State :=
  { ready cfg with currentValue := v, direction := d, armed := true, trigActive := true }

/-- The outcome is a next state with this property. -/
def nextIs (r : Result) (p : State → Bool) : Bool :=
  match r with
  | .next t => p t
  | .fault _ => false
  | .refused _ => false

/-- The outcome is this refusal. -/
def refusedIs (r : Result) (e : Refusal) : Bool :=
  match r with
  | .refused q => decide (q = e)
  | .next _ => false
  | .fault _ => false

/-- The outcome is this fault. -/
def faultIs (r : Result) (e : Fault) : Bool :=
  match r with
  | .fault q => decide (q = e)
  | .next _ => false
  | .refused _ => false

/-- The events written out of a frame by the spec's wire order: `CsLow`, sixteen bits, `CsHigh`. -/
def wire (bs : List Bool) : List Event := [.csLow] ++ bs.map .bit ++ [.csHigh]

/-! ### Well-formedness: an ill-formed term for each check -/

theorem test_wf_build : ({ Build.standard with wValue := 12 } : Build).wellFormed = false := by decide
theorem test_wf_write : (Instr.write .A 0x10000).wellFormed Build.standard = false := by decide
theorem test_wf_writeBoth_a : (Instr.writeBoth 0x10000 0).wellFormed Build.standard = false := by decide
theorem test_wf_writeBoth_b : (Instr.writeBoth 0 0x10000).wellFormed Build.standard = false := by decide
theorem test_wf_configure :
    (Instr.configure ⟨12, false, false, .gain1x, false, false, .fullSweepPerTrigger, .B⟩ 0).wellFormed Build.standard =
      false := by decide
theorem test_mode_frame12 : (Instr.frameWrite12 .A false .gain1x 0).inMode ⟨.r10, .fullSweepPerTrigger⟩ = false := by
  decide
theorem test_mode_frame10 : (Instr.frameWrite10 .A false .gain1x 0).inMode ⟨.r8, .fullSweepPerTrigger⟩ = false := by decide
theorem test_mode_frame8 : (Instr.frameWrite8 .A false .gain1x 0).inMode ⟨.r12, .fullSweepPerTrigger⟩ = false := by decide
theorem test_mode_pollFull : Instr.pollFull.inMode ⟨.r8, .singleStepPerPoll⟩ = false := by decide
theorem test_mode_pollSingle : Instr.pollSingle.inMode ⟨.r8, .fullSweepPerTrigger⟩ = false := by decide

/-! ### Decoding: a word written out from the spec's encoding for each constructor -/

/-- Table 2.1 row 5: `c b g 1 dddd dddd dddd` with c 1, b 1, g 0, data 0x800. -/
theorem test_decode_frameWrite12 :
    decode Build.standard ⟨.r12, .fullSweepPerTrigger⟩ (.frame 0b1101100000000000) =
      .ok (.frameWrite12 .B true .gain2x 0x800) := by decide
/-- Table 2.1 row 11: `1 1 1 1`, then 0x155 in bits 11 to 2, then `00`. -/
theorem test_decode_frameWrite10 :
    decode Build.standard ⟨.r10, .fullSweepPerTrigger⟩ (.frame 0b1111010101010100) =
      .ok (.frameWrite10 .B true .gain1x 0x155) := by decide
/-- Table 2.1 row 16: `1 0 0 1`, then 0x5A in bits 11 to 4, then `0000`. -/
theorem test_decode_frameWrite8 :
    decode Build.standard ⟨.r8, .fullSweepPerTrigger⟩ (.frame 0b1001010110100000) =
      .ok (.frameWrite8 .B false .gain2x 0x5A) := by decide
/-- Table 2.3 row 2: `0 1 1 0`, data 0. -/
theorem test_decode_frameShutdown :
    decode Build.standard ⟨.r8, .fullSweepPerTrigger⟩ (.frame 0b0110000000000000) = .ok (.frameShutdown true .gain1x) := by
  decide
/-- Rule R94, every field of `cfgw` on the other side of its reset: program P6's 0x077A. -/
theorem test_decode_configure :
    decode Build.standard Mode.standard
        (.command { bareCommand 0b0001 with cfgw := 0b0000011101111010, interval := 100 }) =
      .ok (.configure ⟨10, true, true, .gain2x, false, true, .singleStepPerPoll, .B⟩ 100) := by decide
theorem test_decode_write :
    decode Build.standard Mode.standard (.command { bareCommand 0b0010 with chan := 1, valA := 0xFFFF, valB := 3 }) =
      .ok (.write .B 0xFFFF) := by decide
theorem test_decode_writeBoth :
    decode Build.standard Mode.standard (.command { bareCommand 0b0011 with valA := 1, valB := 2 }) =
      .ok (.writeBoth 1 2) := by decide
theorem test_decode_latch : decode Build.standard Mode.standard (.command (bareCommand 0b0100)) = .ok .latch := by decide
theorem test_decode_shutdown : decode Build.standard Mode.standard (.command (bareCommand 0b0101)) = .ok .shutdown := by
  decide
theorem test_decode_pollFull :
    decode Build.standard ⟨.r8, .fullSweepPerTrigger⟩ (.command (bareCommand 0b0110)) = .ok .pollFull := by decide
theorem test_decode_pollSingle :
    decode Build.standard ⟨.r8, .singleStepPerPoll⟩ (.command (bareCommand 0b0110)) = .ok .pollSingle := by decide
theorem test_decode_trigRise : decode Build.standard Mode.standard (.trig 0b01) = .ok .trigRise := by decide
theorem test_decode_trigFall : decode Build.standard Mode.standard (.trig 0b10) = .ok .trigFall := by decide
theorem test_decode_reset : decode Build.standard Mode.standard (.rst 0b1) = .ok .reset := by decide
theorem test_decode_step : decode Build.standard Mode.standard (.internal 0b1) = .ok .step := by decide

/-- Rule R86: PAD is zero in every frame sent. -/
theorem test_reject_pad10 :
    decode Build.standard ⟨.r10, .fullSweepPerTrigger⟩ (.frame 0x3001) = .rejected .padNotZero := by decide
theorem test_reject_pad8 :
    decode Build.standard ⟨.r8, .fullSweepPerTrigger⟩ (.frame 0x3008) = .rejected .padNotZero := by decide
/-- Rule R91(a). -/
theorem test_reject_shutdown :
    decode Build.standard ⟨.r8, .fullSweepPerTrigger⟩ (.frame 0xA000) = .rejected .notShutdownFrame := by decide
/-- Table 2.7 rows 5, 6, 7, 13. -/
theorem test_reject_reservedBit :
    decode Build.standard Mode.standard (.command { bareCommand 0x1 with cfgw := 0x080C }) =
      .rejected .reservedConfigBits := by decide
theorem test_reject_noChannelB :
    decode Build.standard Mode.standard (.command { bareCommand 0x1 with cfgw := 0x040C }) = .rejected .noChannelB := by
  decide
theorem test_reject_reservedBit_first :
    decode Build.standard Mode.standard (.command { bareCommand 0x1 with cfgw := 0x0809 }) =
      .rejected .reservedConfigBits := by decide
theorem test_reject_op :
    ([0x0, 0x7, 0x8, 0xF] : List (BitVec 4)).all
      (fun op => decode Build.standard Mode.standard (.command (bareCommand op)) = .rejected .reservedOpcode) = true := by
  decide
theorem test_reject_wide :
    decode Build.standard Mode.standard (.command { bareCommand 0x2 with valA := 0x10000 }) =
      .rejected .valueTooWide := by decide
theorem test_reject_trig :
    decode Build.standard Mode.standard (.trig 0b00) = .rejected .nothingSelected := by decide

/-- Rule R89 under the non-default build parameters of table 2.3's last line, as a dual-channel device sends it. -/
theorem test_encode_shutdown_build :
    encode { Build.standard with shdnChannel := true, shdnData := 0xFFF } (.frameShutdown false .gain1x) =
      .frame 0xAFFF := by decide

/-! ### The encoder (tables 2.1, 2.2, 2.3, 2.7) -/

/-- Table 2.1 rows 2, 11, 15, 18: over-range, 10-bit, mask before shift, largest operand. -/
theorem test_writeFrame_values :
    writeFrame cfg12 .A 0x1000 = 0x3000 ∧
    writeFrame { cfg10 with gainMode := .gain1x } .B 0x155 = 0xF554 ∧
    writeFrame cfg8 .A 0x1A5 = 0x3A50 ∧
    writeFrame { cfg12 with bufferInput := true, gainMode := .gain2x } .A 0xFFFF = 0x5FFF := by decide

/-- The wire order written out under table 2.1, row 6. -/
theorem test_write_wire :
    nextIs (exec (.write .A 0x123) (ready cfg12)) (fun t => t.trace = wire
      [false, false, true, true, false, false, false, true, false, false, true, false, false, false, true, true]) = true := by
  decide
/-- Law L6 of rule R112: no state, a pin apart. -/
theorem test_write_frame :
    nextIs (exec (.write .B 0xABC) (ready cfg12))
      (fun t => { t with trace := [], dac := Dac.unknown } = ready cfg12) = true := by decide
/-- Table 2.7 row 1. -/
theorem test_configure :
    nextIs (exec (.configure ⟨12, true, false, .gain1x, true, true, .fullSweepPerTrigger, .A⟩ 50) blank)
      (fun t => t = ready cfg12) = true := by decide
/-- Table 2.7 row 2. -/
theorem test_configure_invalid :
    nextIs (exec (.configure ⟨9, false, false, .gain1x, false, false, .fullSweepPerTrigger, .A⟩ 0) blank)
      (fun t => t = halted) = true := by decide
/-- Table 2.2 row 1, with its observer. -/
theorem test_writeBoth :
    nextIs (exec (.writeBoth 0x123 0xABC) (ready cfg12)) (fun t =>
      t.trace = busSendEvents 0x3123 ++ busSendEvents 0xBABC ++ [.latchLow, .latchHigh] ∧
      t.dac.outA = some ⟨true, false, true, 0x123⟩ ∧ t.dac.outB = some ⟨true, false, true, 0xABC⟩) = true := by decide
/-- Table 2.2 row 8. -/
theorem test_writeBoth_single : refusedIs (exec (.writeBoth 1 2) (ready cfg8)) .noChannelB = true := by decide
/-- Rule R114. -/
theorem test_latch : nextIs (exec .latch (ready cfg12)) (fun t => t.trace = [.latchLow, .latchHigh]) = true := by decide
/-- Table 2.2 row 6. -/
theorem test_latch_noop : nextIs (exec .latch (ready cfg8)) (fun t => t = ready cfg8) = true := by decide
/-- Table 2.3 rows 1 and 4. -/
theorem test_shutdown : nextIs (exec .shutdown (ready cfg8)) (fun t => t.trace = busSendEvents 0x2000) = true := by decide
theorem test_shutdown_buf_2x :
    nextIs (exec .shutdown (ready cfg10)) (fun t => t.trace = busSendEvents 0x4000) = true := by decide

/-- Rules R25 and R89 in a build with SHDN_CHANNEL 1: bit 15 is 0 on a single-channel device, 1 on a dual-channel one. -/
theorem test_shutdown_channel :
    nextIs (exec .shutdown { ready cfg8 with build := { Build.standard with shdnChannel := true, shdnData := 0xFFF } })
      (fun t => t.trace = busSendEvents 0x2FFF) = true ∧
    nextIs (exec .shutdown { ready cfg12 with build := { Build.standard with shdnChannel := true, shdnData := 0xFFF } })
      (fun t => t.trace = busSendEvents 0xAFFF) = true := by decide

/-! ### Frames -/

theorem test_frameWrite12 :
    nextIs (exec (.frameWrite12 .A false .gain1x 0x123) (ready cfg12)) (fun t => t.trace = busSendEvents 0x3123) = true := by
  decide
theorem test_frameWrite10 :
    nextIs (exec (.frameWrite10 .B true .gain2x 0x001) (ready cfg10)) (fun t => t.trace = busSendEvents 0xD004) = true := by
  decide
theorem test_frameWrite8 :
    nextIs (exec (.frameWrite8 .A false .gain1x 0xFE) (ready cfg8)) (fun t => t.trace = busSendEvents 0x3FE0) = true := by
  decide
theorem test_frameShutdown :
    nextIs (exec (.frameShutdown true .gain2x) (ready cfg10)) (fun t => t.trace = busSendEvents 0x4000 ∧
      t.dac.inA = some ⟨false, true, false, 0⟩) = true := by decide

/-! ### The trigger and the sequencer (tables 2.4, 2.5, 2.6, 2.8) -/

theorem test_trigRise :
    nextIs (exec .trigRise (ready cfg8)) (fun t => t = { ready cfg8 with trigActive := true, armed := true }) = true := by
  decide
/-- Table 2.7 row 10. -/
theorem test_trigRise_halted :
    nextIs (exec .trigRise halted) (fun t => t = { halted with trigActive := true }) = true := by decide
theorem test_trigFall_full :
    nextIs (exec .trigFall (armedAt cfg8 0 .ascending)) (fun t => t.armed = true ∧ t.trigActive = false) = true := by decide
theorem test_trigFall_single :
    nextIs (exec .trigFall (armedAt cfg8single 3 .ascending)) (fun t => t.armed = false ∧ t.currentValue = 3) = true := by
  decide
/-- Table 2.5 rows 1 and 3. -/
theorem test_pollFull_unarmed : nextIs (exec .pollFull (ready cfg8)) (fun t => t = ready cfg8) = true := by decide
theorem test_pollFull_armed :
    nextIs (exec .pollFull (armedAt cfg8 255 .descending))
      (fun t => t = { armedAt cfg8 255 .descending with armed := false, phase := .sweeping }) = true := by decide
/-- Table 2.6 row k = 256. -/
theorem test_pollSingle_top :
    nextIs (exec .pollSingle (armedAt cfg8single 255 .ascending)) (fun t =>
      t.trace = busSendEvents 0x3FE0 ++ [.wait 5] ∧ t.currentValue = 254 ∧ t.direction = .descending) = true := by decide
/-- Table 2.6 row k = 511 of the other order. -/
theorem test_pollSingle_emitThenAdvance :
    nextIs (exec .pollSingle { armedAt cfg8single 0 .descending with
        build := { Build.standard with pollOrder := .emitThenAdvance } })
      (fun t => t.trace = busSendEvents 0x3000 ++ [.wait 5] ∧ t.currentValue = 1 ∧ t.direction = .ascending) = true := by
  decide
/-- Table 2.4 row 1: step 255. -/
theorem test_step_last :
    nextIs (exec .step (sweepAt cfg8 255 254 .ascending)) (fun t =>
      t.trace = busSendEvents 0x3FF0 ++ [.wait 10] ∧ t.currentValue = 255 ∧ t.direction = .descending ∧
      t.phase = .idle ∧ t.stepIndex = 0) = true := by decide
/-- Table 2.4 row 5: step 1 of the descending sweep. -/
theorem test_step_down :
    nextIs (exec .step (sweepAt cfg10 1 1023 .descending)) (fun t =>
      t.trace = busSendEvents 0xDFF8 ++ [.latchLow, .latchHigh, .wait 100] ∧ t.currentValue = 1022 ∧ t.stepIndex = 2) =
      true := by decide
/-- U6: a sweep begun off its endpoint faults with no frame, inside the range (N = 8, 5 going up) and outside it (256 going
down, whose low bits are an endpoint's). -/
theorem test_step_off_endpoint :
    faultIs (exec .step (sweepAt cfg8 0 5 .ascending)) .sweepOffEndpoint = true ∧
    faultIs (exec .step (sweepAt cfg8 0 256 .descending)) .sweepOffEndpoint = true := by decide
/-- Table 2.8 row 1. -/
theorem test_reset :
    nextIs (exec .reset { sweepAt cfg8 37 36 .ascending with armed := true }) (fun t => t = blank) = true := by decide
/-- Table 2.8, `S.trigActive` unchanged; and rule R200 inside a chip-select window. -/
theorem test_reset_window :
    nextIs (exec .reset { ready cfg8 with trigActive := true, csN := false, trace := [.csLow, .bit true] })
      (fun t => t.trigActive = true ∧ t.csN = true ∧ t.trace = [.csLow, .bit true]) = true := by decide

/-! ### The machine's step -/

/-- Table 2.5 row 8: a command presented during a sweep waits. -/
theorem test_step_holds_command :
    nextIs (step { sweepAt cfg8 1 0 .ascending with port := some { bareCommand 0x2 with valA := 5 } }) (fun t =>
      t.port = some { bareCommand 0x2 with valA := 5 } ∧ t.trace = busSendEvents 0x3010 ++ [.wait 10]) = true := by decide
/-- Table 2.5 row 9: the level on the pin stays high, so no edge is shown. -/
theorem test_step_no_edge :
    refusedIs (step { ready cfg8 with trigActive := true, script := [.trigPin true] }) (.badEncoding .nothingSelected) =
      true := by decide
/-- Rule R58: inside a frame the sequencer may stop after any one event. -/
theorem test_step_fine :
    nextIs (step { ready cfg8 with work := [.send 0x3010], script := [.fine, .trigPin true] }) (fun t =>
      t.trace = [.csLow] ∧ t.csN = false ∧ t.work.length = 17 ∧ t.script = [.trigPin true]) = true := by decide
/-- A word of the opcode table placed at reset is what the next step runs. -/
theorem test_fetch_configure :
    decodeTableWord 8 0x1 = some (.configure ⟨0, false, false, .gain1x, false, false, .fullSweepPerTrigger, .A⟩ 0) ∧
    nextIs (step (State.withFetchWord blank 8 0x1)) (fun t => t.lifecycle = .halted) = true := by decide
theorem test_fetch_frame :
    decodeTableWord 16 0x3123 = some (.frameWrite12 .A false .gain1x 0x123) ∧
    nextIs (step (State.withFetchWord (ready cfg12) 16 0x3123)) (fun t => t.trace = busSendEvents 0x3123) = true := by
  decide
theorem test_fetch_trig :
    decodeTableWord 2 0b10 = some .trigFall ∧
    nextIs (step (State.withFetchWord (ready cfg8) 2 0b10)) (fun t => t.trigActive = false) = true := by decide
/-- Rule R100: `sweep` in the middle of a sweep (program P2, lines 8 and 11: 254 steps are left), and in Idle. -/
theorem test_sweep_turns :
    turnsToIdle (sweepAt cfg8 2 254 .descending) = 254 ∧ expandPseudo (ready cfg8) .sweep = [] := by decide
/-- Table 2.7 rows 1 and 2 on the status outputs, in the codes of rule R41. -/
theorem test_status :
    statusOf (ready cfg12) = ⟨1, 0, 0, 0, false, 0⟩ ∧ statusOf halted = ⟨2, 1, 0, 0, false, 0⟩ ∧
    statusOf { sweepAt cfg8 2 254 .descending with armed := true } = ⟨1, 0, 1, 1, true, 254⟩ := by decide
/-- Rule R99: the line of P1's third step. -/
theorem test_line : lineOf (.write .A 0x1000) = some "write A 4096" := by decide

/-! ### Witnesses: states and operands that meet the hypotheses of each obligation, clause by clause -/

/-- Ready under SingleStepPerPoll on a dual device with a latch line. -/
def dualSingle : DacConfiguration := ⟨.r10, true, true, .gain2x, false, true, .singleStepPerPoll, .B, 100⟩

/-- The operand of a single-channel device. -/
def onlyA : CfgOperand := ⟨8, false, false, .gain1x, false, false, .singleStepPerPoll, .A⟩

/-- The operand of a dual device whose ramp is on channel B. -/
def dualB : CfgOperand := ⟨12, true, false, .gain1x, false, false, .singleStepPerPoll, .B⟩

theorem witness_DecodeOfEncodeIsIdentity :
    (Instr.configure ⟨15, true, false, .gain1x, true, true, .fullSweepPerTrigger, .B⟩ 0xFFFFFFFF).wellFormed
        Build.standard = true ∧
    (Instr.write .B 0xFFFF).wellFormed Build.standard = true ∧ (Instr.writeBoth 0 0xFFFF).wellFormed Build.standard = true ∧
    (Instr.frameWrite8 .B true .gain2x 0xFF).inMode ⟨.r8, .fullSweepPerTrigger⟩ = true ∧
    Instr.pollSingle.inMode ⟨.r8, .singleStepPerPoll⟩ = true := by decide

theorem witness_EncodeOfDecodedFrameIsIdentity :
    decodeFrame Build.standard .r8 0x95A0 = .ok (.frameWrite8 .B false .gain2x 0x5A) ∧
    decodeFrame Build.standard .r12 0x6000 = .ok (.frameShutdown true .gain1x) := by decide

theorem witness_ReservedCommandsRefused :
    ((bareCommand 0x0).op = 0x0 ∧ 7 ≤ (bareCommand 0x7).op.toNat ∧ 7 ≤ (bareCommand 0xF).op.toNat) ∧
    (({ bareCommand 0x1 with cfgw := 0x0800 } : Command).cfgw.extractLsb' 11 5 ≠ 0) ∧
    (({ bareCommand 0x1 with cfgw := 0x040C } : Command).cfgw.extractLsb' 11 5 = 0 ∧
      (0x040C : BitVec 16).getLsbD 10 = true ∧ (0x040C : BitVec 16).getLsbD 4 = false) ∧
    (({ ready cfg8 with port := some (bareCommand 0x7) } : State).script = [] ∧ (ready cfg8).work = [] ∧
      (ready cfg8).phase = .idle ∧
      decode (ready cfg8).build (ready cfg8).mode (.command (bareCommand 0x7)) = .rejected .reservedOpcode) := by decide

/-- The hypotheses `Serving` with channel A, and with channel B of a dual device: for the statements about WRITE, WRITEBOTH,
LATCH, SHUTDOWN, the round trip, the frame rows, the observer and what is refused on a single-channel device. -/
theorem witness_Serving :
    Serving (ready cfg8) cfg8 ∧ cfg8.dualChannel = false ∧ cfg8.latchLinePresent = false ∧
    Serving (ready cfg10) cfg10 ∧ cfg10.dualChannel = true ∧ cfg10.latchLinePresent = true ∧ cfg10.autoLatchDual = false ∧
    Serving (ready cfg12) cfg12 ∧ cfg12.dualChannel = true ∧ cfg12.autoLatchDual = true := by decide

theorem witness_WriteReachesTheDac : ∃ t, Serving (ready cfg10) cfg10 ∧ exec (.write .B 0x3FF) (ready cfg10) = .next t :=
  ⟨_, by decide, rfl⟩

theorem witness_PulseCommitsBothChannels : ∃ t, Serving (ready cfg10) cfg10 ∧ cfg10.latchLinePresent = true ∧
    exec .latch (ready cfg10) = .next t :=
  ⟨_, by decide, rfl, rfl⟩

/-- `cfgw` 0x009C: a dual device without a latch line (table 2.2 row 5). -/
def cfg12noLatch : DacConfiguration := { cfg12 with latchLinePresent := false }

theorem witness_WriteBothCommitsTogether : ∃ t u w, exec (.writeBoth 0 0xFFF) (ready cfg12) = .next t ∧
    cfg12.autoLatchDual = true ∧ cfg12.latchLinePresent = true ∧ exec (.writeBoth 0 0x3FF) (ready cfg10) = .next u ∧
    cfg10.autoLatchDual = false ∧ cfg10.latchLinePresent = true ∧
    Serving (ready cfg12noLatch) cfg12noLatch ∧ exec (.writeBoth 1 2) (ready cfg12noLatch) = .next w ∧
    cfg12noLatch.latchLinePresent = false :=
  ⟨_, _, _, rfl, rfl, rfl, rfl, rfl, rfl, by decide, rfl, rfl⟩

/-- WriteAfterShutdownWakes: an instruction that is not SHUTDOWN nor its frame row, sending a frame. -/
theorem witness_WriteAfterShutdownWakes : ∃ t, exec (.write .B 0xFFF) (ready cfg12) = .next t ∧
    Instr.write .B 0xFFF ≠ .shutdown ∧ (∀ buf gain, Instr.write .B 0xFFF ≠ .frameShutdown buf gain) ∧
    Serving (ready cfg12) cfg12 ∧ cfg12.dualChannel = true :=
  ⟨_, rfl, by decide, (fun _ _ h => by cases h), by decide, rfl⟩

/-- SingleChannelFramesNameChannelA: WRITE, and the SHUTDOWN of a build with SHDN_CHANNEL 1. -/
theorem witness_SingleChannelFramesNameChannelA : ∃ t u,
    ReadyWith (ready cfg8) cfg8 ∧ cfg8.dualChannel = false ∧ exec (.write .A 0xFF) (ready cfg8) = .next t ∧
    exec .shutdown { ready cfg8 with build := { Build.standard with shdnChannel := true } } = .next u :=
  ⟨_, _, by decide, rfl, rfl, rfl⟩

/-- StatusOutputsFollowTheOperations: each of the four operations completes. -/
theorem witness_StatusOutputsFollowTheOperations : ∃ t u v w, exec (.write .A 1) (ready cfg12) = .next t ∧
    exec (.writeBoth 1 2) (ready cfg12) = .next u ∧ exec .latch (ready cfg12) = .next v ∧
    exec .shutdown (ready cfg12) = .next w :=
  ⟨_, _, _, _, rfl, rfl, rfl, rfl⟩

theorem witness_EncoderIgnoresTheWaveform : ∃ t, Serving (ready cfg12) cfg12 ∧
    Serving { ready cfg12 with currentValue := 4095, direction := .descending, armed := true, csN := false } cfg12 ∧
    exec (.write .A 1) (ready cfg12) = .next t :=
  ⟨_, by decide, by decide, rfl⟩

theorem witness_SameFractionSameFrame :
    let c8 := cfg8
    let c10 := { cfg8 with resolutionBits := .r10 }
    let c12 := { cfg8 with resolutionBits := .r12 }
    c8.resolutionBits = .r8 ∧ c10.resolutionBits = .r10 ∧ c12.resolutionBits = .r12 ∧
    c10.bufferInput = c8.bufferInput ∧ c12.bufferInput = c8.bufferInput ∧ c10.gainMode = c8.gainMode ∧
    c12.gainMode = c8.gainMode := by decide

/-- RESET at a boundary with both pins high, and inside a pulse. -/
theorem witness_ResetFromEveryState : (ready cfg12).ldacN = true ∧ ({ ready cfg12 with ldacN := false } : State).ldacN = false := by
  decide

/-- All three resolutions, channel A alone and channel B of a dual device. -/
theorem witness_ConfigureMakesReady :
    blank.lifecycle = .unconfigured ∧ blank.phase = .idle ∧ blank.work = [] ∧
    (8#4).toNat = resolutionWidth .r8 ∧ (10#4).toNat = resolutionWidth .r10 ∧ (12#4).toNat = resolutionWidth .r12 ∧
    (onlyA.active = .A ∨ onlyA.dual = true) ∧ (dualB.active = .A ∨ dualB.dual = true) := by decide

/-- The ends of each range of unsupported resolutions. -/
theorem witness_UnsupportedResolution :
    ([0, 7, 9, 11, 13, 15] : List (BitVec 4)).all
      (fun r => r.toNat ≤ 7 ∨ r.toNat = 9 ∨ r.toNat = 11 ∨ 13 ≤ r.toNat) = true ∧
    ([8, 10, 12] : List (BitVec 4)).all
      (fun r => ¬(r.toNat ≤ 7 ∨ r.toNat = 9 ∨ r.toNat = 11 ∨ 13 ≤ r.toNat)) = true := by decide

theorem witness_ConfigureIsRefused :
    (ready cfg8).lifecycle ≠ .unconfigured ∧ halted.lifecycle ≠ .unconfigured ∧
    (blank.lifecycle = .unconfigured ∧ { onlyA with active := .B }.active = .B ∧
      { onlyA with active := .B }.dual = false) := by decide

theorem witness_HaltedBlockOnlyResets : ∃ t u, halted.lifecycle = .halted ∧ exec .reset halted = .next t ∧
    exec .trigRise halted = .next u :=
  ⟨_, _, rfl, rfl, rfl⟩

theorem witness_ConfigurationIsImmutable : ∃ t u, ReadyWith (ready cfg8) cfg8 ∧ step (ready cfg8) = .next t ∧
    step { ready cfg8 with script := [.rst] } = .next u :=
  ⟨_, _, by decide, rfl, rfl⟩

/-- A block that is not Ready, and the instruction of each kind it refuses. -/
theorem witness_OnlyReadyBlocksServe : blank.lifecycle ≠ .ready ∧ halted.lifecycle ≠ .ready ∧
    Instr.write .A 0 ≠ .reset ∧ Instr.write .A 0 ≠ .trigRise ∧ Instr.write .A 0 ≠ .trigFall := by decide

theorem witness_CommandsRefusedWhileReady :
    (ReadyWith (sweepAt cfg8 0 0 .ascending) cfg8 ∧ (sweepAt cfg8 0 0 .ascending).phase = .sweeping ∧
      cfg8.sweepPolicy = .fullSweepPerTrigger) ∧
    (ReadyWith (sweepAt cfg8single 0 0 .ascending) cfg8single ∧
      (sweepAt cfg8single 0 0 .ascending).phase = .sweeping ∧ cfg8single.sweepPolicy = .singleStepPerPoll) ∧
    (Serving (ready cfg8) cfg8 ∧ cfg8.dualChannel = false) ∧
    (ReadyWith (ready cfg8single) cfg8single ∧ (ready cfg8single).phase = .idle) := by decide

/-- The frame rows: each resolution, a channel the device has; a channel, flag bits and a layout it does not have. -/
theorem witness_FrameRows :
    ReadyWith (ready cfg8) cfg8 ∧ cfg8.resolutionBits = .r8 ∧ ReadyWith (ready cfg10) cfg10 ∧ cfg10.resolutionBits = .r10 ∧
    ReadyWith (ready cfg12) cfg12 ∧ cfg12.resolutionBits = .r12 ∧ cfg12.dualChannel = true ∧
    true ≠ cfg8.bufferInput ∧ GainMode.gain2x ≠ cfg8.gainMode ∧ cfg8.dualChannel = false := by decide

theorem witness_OnlyLegalWholeTransfers : ∃ t, exec .step (sweepAt cfg10 1023 1 .descending) = .next t := ⟨_, rfl⟩

theorem witness_TraceOnlyGrows : ∃ t, step { ready cfg8 with port := some (bareCommand 0x5) } = .next t := ⟨_, rfl⟩

theorem witness_PinsFollowTheTrace : ∃ t, PinsFollowTrace { ready cfg8 with work := [.send 0x3000], script := [.fine] } ∧
    ({ ready cfg8 with work := [.send 0x3000], script := [.fine] } : State).script.head? ≠ some .rst ∧
    step { ready cfg8 with work := [.send 0x3000], script := [.fine] } = .next t :=
  ⟨_, by decide, by decide, rfl⟩

theorem witness_ObserverIsAFunctionOfTheTrace : ∃ t, (ready cfg12).cfg = some cfg12 ∧
    (ready cfg12).dac = Dac.ofTrace true (ready cfg12).trace ∧
    step { ready cfg12 with port := some { bareCommand 0x2 with valA := 7 } } = .next t ∧ t.cfg = some cfg12 :=
  ⟨_, rfl, rfl, rfl, rfl⟩

/-- Every lifecycle and both levels, for the two edges. -/
theorem witness_Edges :
    blank.trigActive = false ∧ (ready cfg8).trigActive = false ∧ (armedAt cfg8 0 .ascending).trigActive = true ∧
    ReadyWith (armedAt cfg8 0 .ascending) cfg8 ∧ cfg8.sweepPolicy = .fullSweepPerTrigger ∧
    ReadyWith (armedAt cfg8single 0 .ascending) cfg8single ∧ cfg8single.sweepPolicy = .singleStepPerPoll ∧
    ({ halted with trigActive := true } : State).lifecycle ≠ .ready ∧
    ({ halted with trigActive := true } : State).trigActive = true := by decide

theorem witness_PolaritySaysWhichEdgeIsActive :
    (ready cfg8).build.triggerPolarity = .rising ∧ (ready cfg8).trigActive = false ∧
    ({ Build.standard with triggerPolarity := .falling } : Build).triggerPolarity = .falling ∧
    ({ ready cfg8 with script := [.trigPin true] } : State).script = .trigPin true :: [] := by decide

theorem witness_PollFullTestsAndClears :
    (Serving (armedAt cfg8 0 .ascending) cfg8 ∧ cfg8.sweepPolicy = .fullSweepPerTrigger ∧
      (armedAt cfg8 0 .ascending).armed = true) ∧
    (Serving (ready cfg8) cfg8 ∧ (ready cfg8).armed = false) ∧ blank.lifecycle ≠ .ready ∧
    (ReadyWith (ready cfg8single) cfg8single ∧ cfg8single.sweepPolicy ≠ .fullSweepPerTrigger) ∧
    (ReadyWith (sweepAt cfg8 0 0 .ascending) cfg8 ∧ (sweepAt cfg8 0 0 .ascending).phase ≠ .idle) := by decide

/-- Unarmed; and armed at both endpoints and inside, going up and going down, each with the pair it moves to. -/
theorem witness_PollSingleAdvancesByOne :
    (Serving (ready cfg8single) cfg8single ∧ cfg8single.sweepPolicy = .singleStepPerPoll ∧
      (ready cfg8single).armed = false) ∧
    (Serving (armedAt cfg8single 255 .ascending) cfg8single ∧ (armedAt cfg8single 255 .ascending).armed = true ∧
      cfg8single.activeChannel = .A ∧ maxValue cfg8single.resolutionBits = 255 ∧
      (254 : Value) = maxValue cfg8single.resolutionBits - 1) ∧
    (Serving (armedAt cfg8single 254 .ascending) cfg8single ∧ (254 : Value) ≠ maxValue cfg8single.resolutionBits) ∧
    (Serving (armedAt cfg8single 0 .descending) cfg8single ∧ (armedAt cfg8single 0 .descending).currentValue = 0) ∧
    (Serving (armedAt dualSingle 1 .descending) dualSingle ∧ dualSingle.activeChannel = .B ∧
      dualSingle.dualChannel = true ∧ (armedAt dualSingle 1 .descending).currentValue ≠ 0) := by decide

/-- The first step of a sweep, steps inside one going up and going down, and the last step. -/
theorem witness_StepSendsAndCounts :
    (MidSweep (sweepAt cfg8 0 0 .ascending) cfg8 ∧ AtEndpoint cfg8 0 .ascending ∧
      (0 : Value) ≠ maxValue cfg8.resolutionBits) ∧
    (MidSweep (sweepAt cfg10 0 1023 .descending) cfg10 ∧ AtEndpoint cfg10 1023 .descending) ∧
    (MidSweep (sweepAt cfg8 255 254 .ascending) cfg8 ∧ (255 : Value) = maxValue cfg8.resolutionBits ∧
      (254 : Value).toNat < (maxValue cfg8.resolutionBits).toNat ∧ (255 : Value) = 254 + 1) ∧
    (MidSweep (sweepAt cfg10 1023 1 .descending) cfg10 ∧ (1023 : Value) = maxValue cfg10.resolutionBits ∧
      0 < (1 : Value).toNat ∧ (1 : Value).toNat ≤ (maxValue cfg10.resolutionBits).toNat ∧ (0 : Value) = 1 - 1) := by decide

/-- A sweep begun one off each endpoint, and the three ways out of the range, each at its edge. -/
theorem witness_StepLeavingItsRangeFaults :
    (ReadyWith (sweepAt cfg8 0 1 .ascending) cfg8 ∧ (sweepAt cfg8 0 1 .ascending).stepIndex = 0 ∧
      ¬AtEndpoint cfg8 1 .ascending ∧ ¬AtEndpoint cfg8 254 .descending ∧ ¬AtEndpoint cfg8 256 .descending) ∧
    (ReadyWith (sweepAt cfg8 1 255 .ascending) cfg8 ∧ (sweepAt cfg8 1 255 .ascending).phase = .sweeping ∧
      (sweepAt cfg8 1 255 .ascending).work = [] ∧ (sweepAt cfg8 1 255 .ascending).stepIndex ≠ 0 ∧
      (maxValue cfg8.resolutionBits).toNat ≤ (255 : Value).toNat) ∧
    (ReadyWith (sweepAt cfg8 1 0 .descending) cfg8 ∧ (sweepAt cfg8 1 0 .descending).currentValue = 0) ∧
    (ReadyWith (sweepAt cfg8 1 257 .descending) cfg8 ∧ (maxValue cfg8.resolutionBits).toNat + 1 < (257 : Value).toNat) := by
  decide

/-- Both endpoints a sweep may start from. -/
theorem witness_FullSweepIsExact :
    (MidSweep (sweepAt cfg8 0 0 .ascending) cfg8 ∧ (sweepAt cfg8 0 0 .ascending).stepIndex = 0 ∧
      AtEndpoint cfg8 0 .ascending ∧ (sweepAt cfg8 0 0 .ascending).script = []) ∧
    (MidSweep (sweepAt cfg10 0 1023 .descending) cfg10 ∧ AtEndpoint cfg10 1023 .descending) := by decide

/-- A command waiting in a sweep and inside an operation, and an empty port in both, with a command presented or not. -/
theorem witness_CommandsWaitForTheSweep : ∃ t u v w,
    ((sweepAt cfg8 0 0 .ascending).script = [] ∧ (sweepAt cfg8 0 0 .ascending).work = [] ∧
      (sweepAt cfg8 0 0 .ascending).phase = .sweeping) ∧
    step { sweepAt cfg8 0 0 .ascending with port := some (bareCommand 0x4) } = .next t ∧
    step { ready cfg8 with port := some (bareCommand 0x4), work := [.send 0x3000], script := [.fine] } = .next u ∧
    step { sweepAt cfg8 0 0 .ascending with script := [.present (bareCommand 0x4)] } = .next v ∧
    step { ready cfg8 with work := [.send 0x3000] } = .next w :=
  ⟨_, _, _, _, ⟨rfl, rfl, rfl⟩, rfl, rfl, rfl, rfl⟩

theorem witness_ArmedPollsDrawTheTriangle :
    Serving (armedAt dualSingle 0 .ascending) dualSingle ∧ dualSingle.sweepPolicy = .singleStepPerPoll ∧
    (dualSingle.activeChannel = .A ∨ dualSingle.dualChannel = true) ∧ (armedAt dualSingle 0 .ascending).armed = true ∧
    (armedAt dualSingle 0 .ascending).currentValue = 0 ∧ (armedAt dualSingle 0 .ascending).direction = .ascending := by
  decide

theorem witness_PauseChangesNothing :
    Serving (armedAt cfg8single 3 .ascending) cfg8single ∧ cfg8single.sweepPolicy = .singleStepPerPoll ∧
    (armedAt cfg8single 3 .ascending).trigActive = true ∧ (armedAt cfg8single 3 .ascending).armed = true := by decide

theorem witness_OneEdgeOneSweep :
    Serving (ready cfg8) cfg8 ∧ cfg8.sweepPolicy = .fullSweepPerTrigger ∧ cfg8.activeChannel = .A ∧
    (ready cfg8).stepIndex = 0 ∧ AtEndpoint cfg8 (ready cfg8).currentValue (ready cfg8).direction ∧
    (ready cfg8).armed = false ∧ (ready cfg8).trigActive = false ∧ (ready cfg8).port = none := by decide

/-- Three edges before the last turn; and no edge, and an inactive one alone, in an unarmed block. -/
theorem witness_EdgesDuringASweepCoalesce :
    (MidSweep (sweepAt cfg10 0 1023 .descending) cfg10 ∧ cfg10.sweepPolicy = .fullSweepPerTrigger ∧
      (sweepAt cfg10 0 1023 .descending).stepIndex = 0 ∧ AtEndpoint cfg10 1023 .descending ∧
      (sweepAt cfg10 0 1023 .descending).port = none) ∧
    (List.replicate 1023 0 ++ [3]).length = sweepLength cfg10 ∧ (List.replicate 1024 0).length = sweepLength cfg10 ∧
    (sweepAt cfg10 0 1023 .descending).trigActive = false ∧ 0 < activeEdges false 3 ∧
    (sweepAt cfg10 0 1023 .descending).armed = false ∧ activeEdges false 0 = 0 ∧ activeEdges true 1 = 0 :=
  ⟨by decide, by rw [List.length_append, List.length_replicate]; rfl, by rw [List.length_replicate]; rfl, rfl, by decide,
    rfl, rfl, rfl⟩

/-- A command on the port, a frame left to send, a sweep, an edge and a reset, each at its place. -/
theorem witness_StepRunsTheDecodedInstruction :
    (decode (ready cfg8).build (ready cfg8).mode (.command (bareCommand 0x4)) = .ok .latch ∧ (ready cfg8).work = [] ∧
      (ready cfg8).phase = .idle ∧ (ready cfg8).script = []) ∧
    decode (ready cfg8).build (ready cfg8).mode (.frame 0x3FF0) = .ok (.frameWrite8 .A false .gain1x 0xFF) ∧
    (sweepAt cfg8 0 0 .ascending).phase = .sweeping ∧
    decode (ready cfg8).build (ready cfg8).mode
      (.trig (trigTransition (ready cfg8).build.triggerPolarity (ready cfg8).trigActive true)) = .ok .trigRise := by decide

theorem witness_SubStepsAddUpToTheOperation : ∃ u, (ready cfg12).work = [] ∧ start (.writeBoth 1 2) (ready cfg12) = .next u :=
  ⟨_, rfl, rfl⟩

theorem witness_TriggerCommutesWithSubSteps : ({ ready cfg8 with work := [.send 0x3000] } : State).work ≠ [] := by decide

/-- The invariant holds in a halted block. -/
theorem witness_Inv_halted : Inv halted where
  build := by decide
  fault := by decide
  configured := by decide
  channel := fun _ h => by cases h
  workReady := fun _ => rfl
  waveform :=
    { notReady := fun _ => by decide
      inRange := fun _ h => by cases h.1
      idleIndex := fun _ => rfl
      sweeping := fun h => by cases h
      endpoint := fun _ h => by cases h.1 }

/-- The invariant holds at the last step of a sweep. -/
theorem witness_Inv_sweeping : Inv (sweepAt cfg8 255 254 .ascending) where
  build := by decide
  fault := by decide
  configured := by decide
  channel := fun _ h => by cases h; decide
  workReady := fun h => absurd rfl h
  waveform :=
    { notReady := fun h => absurd rfl h
      inRange := fun _ h => by cases h.2; decide
      idleIndex := fun h => by cases h
      sweeping := fun _ => ⟨cfg8, by decide, rfl, by decide, by decide⟩
      endpoint := fun _ _ _ h => by cases h }

/-- NothingSentUnlessReady: a halted block and a step it takes. -/
theorem witness_NothingSentUnlessReady : ∃ t, Inv halted ∧ halted.lifecycle ≠ .ready ∧ step halted = .next t :=
  ⟨_, witness_Inv_halted, by decide, rfl⟩

/-- EverySweepEnds: the last step of a sweep. -/
theorem witness_EverySweepEnds :
    Inv (sweepAt cfg8 255 254 .ascending) ∧ (sweepAt cfg8 255 254 .ascending).cfg = some cfg8 ∧
    (sweepAt cfg8 255 254 .ascending).phase = .sweeping ∧ (sweepAt cfg8 255 254 .ascending).work = [] ∧
    (sweepAt cfg8 255 254 .ascending).script = [] :=
  ⟨witness_Inv_sweeping, rfl, rfl, rfl, rfl⟩

/-- EveryStepKeepsTheInvariant: the step that ends a sweep. -/
theorem witness_EveryStepKeepsTheInvariant : ∃ t, Inv (sweepAt cfg8 255 254 .ascending) ∧
    step (sweepAt cfg8 255 254 .ascending) = .next t ∧ t.phase = .idle :=
  ⟨_, witness_Inv_sweeping, rfl, rfl⟩

end Sys2Proof.Tests
end

/-! PROOFS. The transport operations as lists of events (rules R111, R113, R114, R115), and rule R56: executing one of them
`n` times sends its list `n` times. -/

namespace Sys2Proof.Machine

open Sys2Proof Sys2Proof.Safety

/-! ### Sending leaves the block serving -/

@[simp] theorem emitAll_trace (es : List Event) (s : State) : (emitAll es s).trace = s.trace ++ es := by simp [emitAll_eq]

theorem serving_emitAll {s : State} {cfg : DacConfiguration} (h : Serving s cfg) (es : List Event) :
    Serving (emitAll es s) cfg := by
  simpa [Serving, ReadyWith] using h

/-! ### Each operation is its events -/

/-- Completing an operation begun between two commands runs its sub-steps. -/
theorem settle_withWork {s : State} (h : s.work = []) (ws : List SubStep) :
    ({ s with work := ws } : State).settle = runSubs ws s := by
  cases s; cases h; rfl

theorem channelExists_iff (cfg : DacConfiguration) (c : Channel) :
    channelExists cfg c = true ↔ c = .A ∨ cfg.dualChannel = true := by
  simp [channelExists]

section
variable {s : State} {cfg : DacConfiguration}

/-- WRITE (rule R111). -/
theorem exec_write (h : Serving s cfg) {c : Channel} (hc : c = .A ∨ cfg.dualChannel = true) (v : Nat) :
    exec (.write c v) s = .next (emitAll (busSendEvents (writeFrame cfg c v)) s) := by
  obtain ⟨hr, hp, hw⟩ := h
  simp only [exec, execWrite, startWrite, whenReady_of hr, whenFree_of hw hp, (channelExists_iff cfg c).2 hc, require_true,
    complete_next_eq, settle_withWork hw]
  rfl

/-- WRITEBOTH (rule R113). -/
theorem exec_writeBoth (h : Serving s cfg) (hd : cfg.dualChannel = true) (a b : Nat) :
    exec (.writeBoth a b) s = .next (emitAll (busSendEvents (writeFrame cfg .A a) ++ busSendEvents (writeFrame cfg .B b) ++
      if cfg.autoLatchDual then latchEvents cfg else []) s) := by
  obtain ⟨hr, hp, hw⟩ := h
  simp only [exec, execWriteBoth, startWriteBoth, whenReady_of hr, whenFree_of hw hp, hd, require_true, complete_next_eq,
    settle_withWork hw, runSubs_append, emitAll_append]
  cases cfg.autoLatchDual
  · rfl
  · simp [writeSubs, latchSubs, runSubs, runSub]

/-- LATCH (rule R114). -/
theorem exec_latch (h : Serving s cfg) : exec .latch s = .next (emitAll (latchEvents cfg) s) := by
  obtain ⟨hr, hp, hw⟩ := h
  simp only [exec, execLatch, startLatch, whenReady_of hr, whenFree_of hw hp, complete_next_eq, settle_withWork hw, latchSubs,
    runSubs_emits]

/-- SHUTDOWN (rule R115). -/
theorem exec_shutdown (h : Serving s cfg) :
    exec .shutdown s = .next (emitAll (busSendEvents (shutdownFrame s.build cfg)) s) := by
  obtain ⟨hr, hp, hw⟩ := h
  simp only [exec, execShutdown, startShutdown, whenReady_of hr, whenFree_of hw hp, complete_next_eq, settle_withWork hw]
  rfl

end

/-- The latch pulse of WRITEBOTH, with its two conditions as one. -/
theorem autoLatch_events (cfg : DacConfiguration) : (if cfg.autoLatchDual then latchEvents cfg else []) =
    if cfg.autoLatchDual = true ∧ cfg.latchLinePresent = true then [.latchLow, .latchHigh] else [] :=
  (ite_and _ _ _ _).symm

/-! ### Repetition -/

/-- In the build `b`, every state serving under `cfg` executes `i` by sending exactly `es`. -/
def SendsWhenServed (b : Build) (cfg : DacConfiguration) (i : Instr) (es : List Event) : Prop :=
  ∀ s : State, Serving s cfg → s.build = b → exec i s = .next (emitAll es s)

/-- Such an operation leaves a state that serves it again, so `n` of them send `es` `n` times. -/
theorem repeatExec_of_sends {b : Build} {cfg : DacConfiguration} {i : Instr} {es : List Event}
    (hi : SendsWhenServed b cfg i es) (n : Nat) {s : State} (hs : Serving s cfg) (hb : s.build = b) :
    repeatExec i n s = .next (emitAll (List.replicate n es).flatten s) := by
  induction n generalizing s with
  | zero => rfl
  | succ n ih =>
    simp only [repeatExec, hi s hs hb, List.replicate_succ, List.flatten_cons, emitAll_append]
    exact ih (serving_emitAll hs es) (by simpa using hb)

/-- What the trace shows of the repetition. -/
theorem repeatExec_trace {cfg : DacConfiguration} {i : Instr} {es : List Event} {s : State}
    (hi : SendsWhenServed s.build cfg i es) (n : Nat) (hs : Serving s cfg) :
    ∃ t, repeatExec i n s = .next t ∧ t.trace = s.trace ++ (List.replicate n es).flatten :=
  ⟨_, repeatExec_of_sends hi n hs rfl, emitAll_trace _ s⟩

/-- Settles O22 (rule R56): each of the four operations sends one fixed list of events from every serving state. -/
theorem repeatedOperationsAreNotMerged : Obligations.RepeatedOperationsAreNotMerged := by
  intro s cfg c v a b n hs
  refine ⟨fun hc => ?write, fun hd => ?writeBoth, ?latch, ?shutdown⟩
  case write => exact repeatExec_trace (fun _ hu _ => exec_write hu hc v) n hs
  case writeBoth =>
    rw [← autoLatch_events]
    exact repeatExec_trace (fun _ hu _ => exec_writeBoth hu hd a b) n hs
  case latch => exact repeatExec_trace (fun _ hu _ => exec_latch hu) n hs
  case shutdown => exact repeatExec_trace (fun _ hu hb => hb ▸ exec_shutdown hu) n hs

end Sys2Proof.Machine

/-! PROOFS. The frames the encoder builds, against the layouts (rule R87), the masking and shifting of the data (rule R85) and
the gain flag (rule R83). -/

namespace Sys2Proof.Machine

open Sys2Proof

/-! ### The data field in bits 11..0 -/

/-- Masked to `N` bits first, then shifted: the product fits twelve bits at every `N` (rule R85). -/
theorem dataField_setWidth_toNat (n : Resolution) (v : Nat) :
    ((dataField n v).setWidth 12).toNat = v % 2 ^ resolutionWidth n * 2 ^ (12 - resolutionWidth n) := by
  cases n <;> simp [dataField, truncValue, resolutionWidth, Nat.shiftLeft_eq] <;> omega

theorem dataField_mod (n : Resolution) (v : Nat) : dataField n (v % 2 ^ resolutionWidth n) = dataField n v := by
  simp [dataField, truncValue]

/-- `N = 12`: twelve data bits (rule R87). -/
theorem dataField_r12 (v : Nat) : (dataField .r12 v).setWidth 12 = BitVec.ofNat 12 v := by
  apply BitVec.eq_of_toNat_eq
  rw [dataField_setWidth_toNat]
  simp [resolutionWidth]

/-- `N = 10`: ten data bits and two zeros (rule R87). -/
theorem dataField_r10 (v : Nat) : (dataField .r10 v).setWidth 12 = BitVec.ofNat 10 v ++ 0#2 := by
  apply BitVec.eq_of_toNat_eq
  rw [dataField_setWidth_toNat, BitVec.toNat_append]
  simp [resolutionWidth, Nat.shiftLeft_eq]

/-- `N = 8`: eight data bits and four zeros (rule R87). -/
theorem dataField_r8 (v : Nat) : (dataField .r8 v).setWidth 12 = BitVec.ofNat 8 v ++ 0#4 := by
  apply BitVec.eq_of_toNat_eq
  rw [dataField_setWidth_toNat, BitVec.toNat_append]
  simp [resolutionWidth, Nat.shiftLeft_eq]

/-! ### A write frame in two parts -/

/-- The four flags in bits 15..12, the data field in bits 11..0 (rule R88). -/
theorem writeFrame_eq_append (cfg : DacConfiguration) (c : Channel) (v : Nat) :
    writeFrame cfg c v =
      headerBits c.bit cfg.bufferInput cfg.gainMode.ga true ++ (dataField cfg.resolutionBits v).setWidth 12 := by
  apply BitVec.eq_of_getLsbD_eq
  intro i _
  rw [writeFrame_getLsbD, BitVec.getLsbD_append]
  by_cases h : i < 12 <;> simp [h]

theorem writeFrame_mod (cfg : DacConfiguration) (c : Channel) (v : Nat) :
    writeFrame cfg c (v % 2 ^ resolutionWidth cfg.resolutionBits) = writeFrame cfg c v := by
  simp only [writeFrame, dataField_mod]

/-- Settles O5 (rule R87): below the four flags stands the data field of the resolution. -/
theorem writeFrameHasItsLayout : Obligations.WriteFrameHasItsLayout := by
  intro cfg c v
  rw [writeFrame_eq_append]
  cases cfg.resolutionBits with
  | r12 => rw [dataField_r12]; rfl
  | r10 => rw [dataField_r10]; exact BitVec.append_assoc' ..
  | r8 => rw [dataField_r8]; exact BitVec.append_assoc' ..

/-- Settles O6 (rule R85): a write frame is its flags beside its data field, which depends on `v mod 2^N` alone. -/
theorem dataIsMaskedThenShifted : Obligations.DataIsMaskedThenShifted := by
  intro cfg c v
  refine ⟨?field, (writeFrame_mod cfg c v).symm, ?flags⟩
  case field => rw [writeFrame_eq_append, BitVec.extractLsb'_append_eq_right, dataField_setWidth_toNat]
  case flags => rw [writeFrame_eq_append, BitVec.extractLsb'_append_eq_left]

/-! ### The gain flag -/

theorem GainMode_ga_eq_decide (g : GainMode) : g.ga = decide (g = .gain1x) := by cases g <;> rfl

theorem writeFrame_gain (cfg : DacConfiguration) (c : Channel) (v : Nat) :
    (writeFrame cfg c v).getLsbD 13 = cfg.gainMode.ga := by
  rw [writeFrame_getLsbD, headerBits_getLsbD]
  simp

theorem shutdownFrame_gain (b : Build) (cfg : DacConfiguration) :
    (shutdownFrame b cfg).getLsbD 13 = cfg.gainMode.ga := by
  rw [shutdownFrame_getLsbD, headerBits_getLsbD]
  simp

/-- Settles O7 (rule R83): bit 13 of either kind of frame is `GA`. -/
theorem gainFlagIsInverted : Obligations.GainFlagIsInverted := by
  intro b cfg c v
  rw [writeFrame_gain, shutdownFrame_gain]
  exact ⟨GainMode_ga_eq_decide _, GainMode_ga_eq_decide _, rfl⟩

end Sys2Proof.Machine

/-! PROOFS. POLL under FullSweepPerTrigger (rule R143), one equation per path: it is one atomic block, so that between two
commands nothing is left to do after it, and its conditions are tried in the order lifecycle, policy, phase. -/

namespace Sys2Proof.Machine

open Sys2Proof Sys2Proof.Safety

section
variable {s : State} {cfg : DacConfiguration}

/-- Served: the test and the clear of the armed flag are one step. -/
theorem exec_pollFull (h : Serving s cfg) (hfull : cfg.sweepPolicy = .fullSweepPerTrigger) :
    exec .pollFull s =
      .next (if s.armed then { s with armed := false, phase := .sweeping, stepIndex := 0 } else s) := by
  obtain ⟨hr, hp, hw⟩ := h
  simp only [exec, execPollFull, startPollFull, whenReady_of hr, hfull, decide_true, require_true, whenFree_of hw hp,
    complete_next_eq]
  have hdone : (if s.armed then { s with armed := false, phase := .sweeping, stepIndex := 0 } else s).work = [] := by
    split <;> exact hw
  rw [settle_of_idle hdone]

/-- Refused outside Ready (rule R109). -/
theorem exec_pollFull_notReady (h : s.lifecycle ≠ .ready) : exec .pollFull s = .refused .notReady := by
  simp only [exec, execPollFull, startPollFull, whenReady_not h, complete_refused]

/-- Refused under the other policy. -/
theorem exec_pollFull_wrongPolicy (hr : ReadyWith s cfg) (h : cfg.sweepPolicy ≠ .fullSweepPerTrigger) :
    exec .pollFull s = .refused .wrongPolicy := by
  simp only [exec, execPollFull, startPollFull, whenReady_of hr, h, decide_false, require_false, complete_refused]

/-- Held while a sweep or an operation is in progress (rule R146). -/
theorem exec_pollFull_held (hr : ReadyWith s cfg) (hfull : cfg.sweepPolicy = .fullSweepPerTrigger)
    (h : ¬(s.work = [] ∧ s.phase = .idle)) : exec .pollFull s = .refused .held := by
  simp only [exec, execPollFull, startPollFull, whenReady_of hr, hfull, decide_true, require_true, whenFree_not h,
    complete_refused]

end

/-- Settles O43 (rule R143): served, POLL tests and clears the flag in one step; each of its conditions refuses it. -/
theorem pollFullTestsAndClears : Obligations.PollFullTestsAndClears := by
  intro s cfg
  refine ⟨fun hs hfull harmed => ?armed, fun hs hfull harmed => ?unarmed, exec_pollFull_notReady,
    exec_pollFull_wrongPolicy, fun hr hfull hp => ?sweeping⟩
  case armed => rw [exec_pollFull hs hfull, if_pos harmed]
  case unarmed => rw [exec_pollFull hs hfull, harmed]; rfl
  case sweeping => exact exec_pollFull_held hr hfull fun hfree => hp hfree.2

end Sys2Proof.Machine

/-! PROOFS. The decoder against the encoder (rules R90, R94 to R97): each kind of code read back, and a frame rebuilt from what
it decodes to. -/

namespace Sys2Proof.Machine

open Sys2Proof

/-! ### Frames read back -/

/-- The four flag bits of a frame, read where the decoder reads them (rule R80). -/
theorem headerBits_append_flags (ch buf ga act : Bool) (d : BitVec 12) :
    (headerBits ch buf ga act ++ d).getLsbD 15 = ch ∧ (headerBits ch buf ga act ++ d).getLsbD 14 = buf ∧
      (headerBits ch buf ga act ++ d).getLsbD 13 = ga ∧ (headerBits ch buf ga act ++ d).getLsbD 12 = act := by
  simp only [BitVec.getLsbD_append, headerBits_getLsbD]
  simp

@[simp] theorem decodeFrame_frameWord12 (b : Build) (ch : Channel) (buf : Bool) (gain : GainMode) (d : BitVec 12) :
    decodeFrame b .r12 (frameWord12 ch buf gain d) = .ok (.frameWrite12 ch buf gain d) := by
  obtain ⟨hch, hbuf, hga, hact⟩ := headerBits_append_flags ch.bit buf gain.ga true d
  have hdata : (frameWord12 ch buf gain d).extractLsb' 0 12 = d := BitVec.extractLsb'_append_eq_right
  simp only [decodeFrame, hdata]
  simp only [frameWord12, hch, hbuf, hga, hact, Channel_ofBit_bit, GainMode_ofGa_ga, if_true]

theorem frameWord10_eq (ch : Channel) (buf : Bool) (gain : GainMode) (d : BitVec 10) :
    frameWord10 ch buf gain d = frameWord12 ch buf gain (d ++ 0#2) :=
  (BitVec.append_assoc' ..).symm

theorem frameWord8_eq (ch : Channel) (buf : Bool) (gain : GainMode) (d : BitVec 8) :
    frameWord8 ch buf gain d = frameWord12 ch buf gain (d ++ 0#4) :=
  (BitVec.append_assoc' ..).symm

@[simp] theorem decodeFrame_frameWord10 (b : Build) (ch : Channel) (buf : Bool) (gain : GainMode) (d : BitVec 10) :
    decodeFrame b .r10 (frameWord10 ch buf gain d) = .ok (.frameWrite10 ch buf gain d) := by
  obtain ⟨hch, hbuf, hga, hact⟩ := headerBits_append_flags ch.bit buf gain.ga true (d ++ 0#2)
  have hpad : (frameWord10 ch buf gain d).extractLsb' 0 2 = 0#2 := BitVec.extractLsb'_append_eq_right
  have hdata : (frameWord10 ch buf gain d).extractLsb' 2 10 = d := by
    apply BitVec.eq_of_getLsbD_eq
    intro i hi
    simp [frameWord10_getLsbD, hi, show 2 + i < 12 by omega, show ¬2 + i < 2 by omega]
  simp only [decodeFrame, hpad, hdata, if_true]
  simp only [frameWord10_eq, frameWord12, hch, hbuf, hga, hact, Channel_ofBit_bit, GainMode_ofGa_ga, if_true]

@[simp] theorem decodeFrame_frameWord8 (b : Build) (ch : Channel) (buf : Bool) (gain : GainMode) (d : BitVec 8) :
    decodeFrame b .r8 (frameWord8 ch buf gain d) = .ok (.frameWrite8 ch buf gain d) := by
  obtain ⟨hch, hbuf, hga, hact⟩ := headerBits_append_flags ch.bit buf gain.ga true (d ++ 0#4)
  have hpad : (frameWord8 ch buf gain d).extractLsb' 0 4 = 0#4 := BitVec.extractLsb'_append_eq_right
  have hdata : (frameWord8 ch buf gain d).extractLsb' 4 8 = d := by
    apply BitVec.eq_of_getLsbD_eq
    intro i hi
    simp [frameWord8_getLsbD, hi, show 4 + i < 12 by omega]
  simp only [decodeFrame, hpad, hdata, if_true]
  simp only [frameWord8_eq, frameWord12, hch, hbuf, hga, hact, Channel_ofBit_bit, GainMode_ofGa_ga, if_true]

@[simp] theorem decodeFrame_frameWordShutdown (b : Build) (n : Resolution) (buf : Bool) (gain : GainMode) :
    decodeFrame b n (frameWordShutdown b buf gain) = .ok (.frameShutdown buf gain) := by
  obtain ⟨hch, hbuf, hga, hact⟩ := headerBits_append_flags b.shdnChannel buf gain.ga false b.shdnData
  have hdata : (frameWordShutdown b buf gain).extractLsb' 0 12 = b.shdnData := BitVec.extractLsb'_append_eq_right
  simp only [decodeFrame, hdata]
  simp only [frameWordShutdown, hch, hbuf, hga, hact, GainMode_ofGa_ga, and_self, if_true, Bool.false_eq_true, if_false]

/-! ### The configuration word read back -/

/-- Seven flags above a four-bit field, bit by bit. -/
theorem flags_append_getLsbD (active policy latch auto gain buf dual : Bool) (res : BitVec 4) {i : Nat} (hi : i < 16) :
    (0#5 ++ BitVec.ofBool active ++ BitVec.ofBool policy ++ BitVec.ofBool latch ++ BitVec.ofBool auto
      ++ BitVec.ofBool gain ++ BitVec.ofBool buf ++ BitVec.ofBool dual ++ res).getLsbD i =
    if i < 4 then res.getLsbD i
    else (decide (i = 4) && dual || decide (i = 5) && buf || decide (i = 6) && gain || decide (i = 7) && auto ||
      decide (i = 8) && latch || decide (i = 9) && policy || decide (i = 10) && active) := by
  simp only [BitVec.getLsbD_append, BitVec.getLsbD_ofBool, BitVec.getLsbD_zero]
  interval_cases i <;> simp

/-- The packed word bit by bit (rule R94), its reserved bits zero. -/
theorem encodeCfg_getLsbD (o : CfgOperand) {i : Nat} (hi : i < 16) :
    (encodeCfg o).getLsbD i =
      if i < 4 then o.res.getLsbD i
      else (decide (i = 4) && o.dual || decide (i = 5) && o.buf || decide (i = 6) && o.gain.code ||
        decide (i = 7) && o.auto || decide (i = 8) && o.latch || decide (i = 9) && o.policy.code ||
        decide (i = 10) && o.active.bit) :=
  flags_append_getLsbD _ _ _ _ _ _ _ _ hi

@[simp] theorem cfgFields_encodeCfg (o : CfgOperand) : cfgFields (encodeCfg o) = o := by
  have hres : (encodeCfg o).extractLsb' 0 4 = o.res := BitVec.extractLsb'_append_eq_right
  simp [cfgFields, hres, encodeCfg_getLsbD, -BitVec.getLsbD_eq_getElem]

theorem cfgError_encodeCfg {o : CfgOperand} (h : o.wellFormed = true) : cfgError (encodeCfg o) = none := by
  have hreserved : (encodeCfg o).extractLsb' 11 5 = 0#5 := by
    apply BitVec.eq_of_getLsbD_eq
    intro i hi
    rw [BitVec.getLsbD_extractLsb', encodeCfg_getLsbD o (by omega)]
    interval_cases i <;> rfl
  simp [cfgError, hreserved, h]

/-! ### Every code read back -/

/-- Settles O1 (rules R90, R94, R95, R97): a frame, a configuration word, an operation code and a pin transition each decode
to what they were written from. -/
theorem decodeOfEncodeIsIdentity : Obligations.DecodeOfEncodeIsIdentity := by
  intro b m i hwf hmode
  cases i with
  | frameWrite12 ch buf gain data =>
    change decodeFrame b m.res _ = _
    rw [of_decide_eq_true hmode]
    exact decodeFrame_frameWord12 b ch buf gain data
  | frameWrite10 ch buf gain data =>
    change decodeFrame b m.res _ = _
    rw [of_decide_eq_true hmode]
    exact decodeFrame_frameWord10 b ch buf gain data
  | frameWrite8 ch buf gain data =>
    change decodeFrame b m.res _ = _
    rw [of_decide_eq_true hmode]
    exact decodeFrame_frameWord8 b ch buf gain data
  | frameShutdown buf gain => exact decodeFrame_frameWordShutdown b m.res buf gain
  | configure o interval => simp [decode, encode, decodeCommand, bareCommand, cfgError_encodeCfg hwf]
  | write c v => simp [decode, encode, decodeCommand, bareCommand, show b.fits v = true from hwf]
  | writeBoth va vb => simp [decode, encode, decodeCommand, bareCommand, show (b.fits va && b.fits vb) = true from hwf]
  | latch => rfl
  | shutdown => rfl
  | pollFull =>
    change decodeCommand b m.policy _ = _
    rw [of_decide_eq_true hmode]
    rfl
  | pollSingle =>
    change decodeCommand b m.policy _ = _
    rw [of_decide_eq_true hmode]
    rfl
  | trigRise => rfl
  | trigFall => rfl
  | reset => rfl
  | step => rfl

/-! ### A frame rebuilt -/

/-- A frame is its four flags, as the decoder names them, beside its data field (rule R80). -/
theorem flags_append_data (f : Frame) :
    headerBits (Channel.ofBit (f.getLsbD 15)).bit (f.getLsbD 14) (GainMode.ofGa (f.getLsbD 13)).ga (f.getLsbD 12) ++
      f.extractLsb' 0 12 = f := by
  apply BitVec.eq_of_getLsbD_eq
  intro i hi
  rw [BitVec.getLsbD_append, headerBits_getLsbD]
  by_cases h12 : i < 12
  · simp [h12]
  · have : i = 12 ∨ i = 13 ∨ i = 14 ∨ i = 15 := by omega
    rcases this with rfl | rfl | rfl | rfl <;> simp

/-- The data field of a frame whose low `k` bits are zero is the bits above them, padded (rule R86). -/
theorem data_append_pad {f : Frame} {n k : Nat} (h : f.extractLsb' 0 k = 0#k) :
    f.extractLsb' k n ++ 0#k = f.extractLsb' 0 (n + k) := by
  rw [← h]
  exact BitVec.extractLsb'_append_extractLsb'_eq_extractLsb' (Nat.zero_add k).symm

/-- Settles O2 (rules R90, R91): the flags and the data the decoder reads are the whole frame, the padding being zero and the
shutdown frame the build's. -/
theorem encodeOfDecodedFrameIsIdentity : Obligations.EncodeOfDecodedFrameIsIdentity := by
  intro b n f i h
  have hf := flags_append_data f
  unfold decodeFrame at h
  dsimp only at h
  split at h
  · next hact =>
    rw [hact] at hf
    split at h
    · cases h
      exact congrArg Code.frame hf
    · split at h <;> cases h
      next hpad => rw [encode, frameWord10_eq, data_append_pad hpad]; exact congrArg Code.frame hf
    · split at h <;> cases h
      next hpad => rw [encode, frameWord8_eq, data_append_pad hpad]; exact congrArg Code.frame hf
  · next hact =>
    split at h <;> cases h
    next hshut =>
      rw [Channel_bit_ofBit, hshut.1, hshut.2, Bool.eq_false_of_not_eq_true hact] at hf
      exact congrArg Code.frame hf

/-- Settles O3: the words of the spec's tables, decoded. -/
theorem wordsOfTheSpecDecode : Obligations.WordsOfTheSpecDecode := by
  unfold Obligations.WordsOfTheSpecDecode
  decide

/-! ### Codes that stand for nothing -/

theorem decodeCommand_reserved {b : Build} {p : SweepPolicy} {c : Command} (h : c.op = 0x0 ∨ 7 ≤ c.op.toNat) :
    decodeCommand b p c = .rejected .reservedOpcode := by
  have hne : ∀ k : BitVec 4, 1 ≤ k.toNat → k.toNat ≤ 6 → c.op ≠ k := by
    rintro k h1 h6 rfl
    rcases h with h | h
    · rw [h] at h1
      exact absurd h1 (by decide)
    · omega
  simp only [decodeCommand, hne 0x1#4 (by decide) (by decide), hne 0x2#4 (by decide) (by decide),
    hne 0x3#4 (by decide) (by decide), hne 0x4#4 (by decide) (by decide), hne 0x5#4 (by decide) (by decide),
    hne 0x6#4 (by decide) (by decide), if_false]

theorem decodeCommand_cfgError {b : Build} {p : SweepPolicy} {c : Command} {e : DecodeError} (hop : c.op = 0x1)
    (h : cfgError c.cfgw = some e) : decodeCommand b p c = .rejected e := by
  simp [decodeCommand, hop, h]

theorem cfgError_reserved {w : BitVec 16} (h : w.extractLsb' 11 5 ≠ 0) : cfgError w = some .reservedConfigBits := by
  simp only [cfgError, ne_eq, show ¬w.extractLsb' 11 5 = 0#5 from h, not_false_eq_true, if_true]

theorem cfgError_noChannelB {w : BitVec 16} (h : w.extractLsb' 11 5 = 0) (hactive : w.getLsbD 10 = true)
    (hdual : w.getLsbD 4 = false) : cfgError w = some .noChannelB := by
  have hwf : (cfgFields w).wellFormed = false := by simp only [cfgFields, CfgOperand.wellFormed, hactive, hdual]; rfl
  simp [cfgError, show w.extractLsb' 11 5 = 0#5 from h, hwf]

/-- Settles O4 (rule R96): the three kinds of reserved encoding, and the refusal of the turn that meets one. -/
theorem reservedCommandsRefused : Obligations.ReservedCommandsRefused := by
  refine ⟨fun _ _ _ h => decodeCommand_reserved h,
    fun _ _ _ hop h => decodeCommand_cfgError hop (cfgError_reserved h),
    fun _ _ _ hop h hactive hdual => decodeCommand_cfgError hop (cfgError_noChannelB h hactive hdual), ?turn⟩
  case turn =>
    intro s c e hscript hwork hphase hport hdec
    simp only [step, takeMove, hscript, wholeTurn, hwork, nextOperation, hphase, hport, hdec, runDecoded]

/-! ### The laws of the write frame (rule R112) -/

theorem writeFrame_channel (cfg : DacConfiguration) (c : Channel) (v : Nat) :
    (writeFrame cfg c v).getLsbD 15 = c.bit := by
  rw [writeFrame_getLsbD, headerBits_getLsbD]
  simp

/-- Settles O9 (law L4): the channel stands in bit 15, the value modulo `2^N` in the data field. -/
theorem writeFrameIsInjective : Obligations.WriteFrameIsInjective := by
  intro cfg c c' v v'
  constructor
  · intro h
    have hch := congrArg (·.getLsbD 15) h
    have hdata := congrArg (fun f : Frame => (f.extractLsb' 0 12).toNat) h
    simp only [writeFrame_channel] at hch
    simp only [(dataIsMaskedThenShifted cfg _ _).1] at hdata
    exact ⟨Channel_bit_inj hch, Nat.eq_of_mul_eq_mul_right (by positivity) hdata⟩
  · rintro ⟨rfl, hv⟩
    rw [← writeFrame_mod, hv, writeFrame_mod]

/-- The same fraction of full scale stands in the same bits of the data field. -/
theorem dataField_of_fraction {m n : Resolution} {u v : Nat}
    (h : u % 2 ^ resolutionWidth m * 2 ^ (12 - resolutionWidth m) =
      v % 2 ^ resolutionWidth n * 2 ^ (12 - resolutionWidth n)) :
    (dataField m u).setWidth 12 = (dataField n v).setWidth 12 := by
  apply BitVec.eq_of_toNat_eq
  rw [dataField_setWidth_toNat, dataField_setWidth_toNat, h]

/-- Settles O10 (law L2): the flags agree, and shifting the value makes up for the wider field. -/
theorem sameFractionSameFrame : Obligations.SameFractionSameFrame := by
  intro c8 c10 c12 c v h8 h10 h12 hb10 hb12 hg10 hg12
  simp only [writeFrame_eq_append, h8, h10, h12, hb10, hb12, hg10, hg12]
  refine ⟨congrArg _ (dataField_of_fraction ?_), congrArg _ (dataField_of_fraction ?_)⟩
  all_goals simp only [resolutionWidth, Nat.shiftLeft_eq]; omega

end Sys2Proof.Machine

/-! PROOFS. Everything an instruction can begin, said once (rules R109 to R115, R143, R144, R147): `Starts s i u` lists, for the
commands and STEP, each state `u` that beginning `i` in `s` can leave. Then the operations run whole, each as one equation. -/

namespace Sys2Proof.Machine

open Sys2Proof Sys2Proof.Safety

/-! ### What an operation can begin -/

/-- The instructions the sequencer takes from the command port or from a running sweep. -/
def sequenced : Instr → Bool
  | .configure _ _ | .write _ _ | .writeBoth _ _ | .latch | .shutdown | .pollFull | .pollSingle | .step => true
  | .frameWrite12 _ _ _ _ | .frameWrite10 _ _ _ _ | .frameWrite8 _ _ _ _ | .frameShutdown _ _ => false
  | .trigRise | .trigFall | .reset => false

/-- The record is held and the block is Ready (rule R110). -/
def configured (n : Resolution) (o : CfgOperand) (interval : BitVec 32) (s : State) : State :=
  { s with
    cfg := some (configurationOf n o interval)
    armed := armedAfterConfigure o.policy s.trigActive s.armed
    lifecycle := .ready }

/-- The armed flag is cleared and a sweep runs (rule R143). -/
def launched (s : State) : State := { s with armed := false, phase := .sweeping, stepIndex := 0 }

/-- The beginnings of the sequenced instructions, with the conditions each is enabled under. -/
inductive Starts (s : State) : Instr → State → Prop
  | configure {o : CfgOperand} {n : Resolution} (interval : BitVec 32) (hl : s.lifecycle = .unconfigured)
      (hwf : o.wellFormed = true) (hw : s.work = []) (hp : s.phase = .idle) (hn : supportedResolution o.res = some n) :
      Starts s (.configure o interval) (configured n o interval s)
  | invalidModel {o : CfgOperand} (interval : BitVec 32) (hl : s.lifecycle = .unconfigured) (hwf : o.wellFormed = true)
      (hw : s.work = []) (hp : s.phase = .idle) (hn : supportedResolution o.res = none) :
      Starts s (.configure o interval) (raiseInvalidModel s)
  | write {cfg : DacConfiguration} {c : Channel} (v : Nat) (hs : Serving s cfg) (hc : c = .A ∨ cfg.dualChannel = true) :
      Starts s (.write c v) { s with work := writeSubs cfg c v }
  | writeBoth {cfg : DacConfiguration} (a b : Nat) (hs : Serving s cfg) (hd : cfg.dualChannel = true) :
      Starts s (.writeBoth a b)
        { s with work := writeSubs cfg .A a ++ writeSubs cfg .B b ++ (if cfg.autoLatchDual then latchSubs cfg else []) }
  | latch {cfg : DacConfiguration} (hs : Serving s cfg) : Starts s .latch { s with work := latchSubs cfg }
  | shutdown {cfg : DacConfiguration} (hs : Serving s cfg) :
      Starts s .shutdown { s with work := [.send (shutdownFrame s.build cfg)] }
  | pollFull {cfg : DacConfiguration} (hs : Serving s cfg) (hfull : cfg.sweepPolicy = .fullSweepPerTrigger)
      (harmed : s.armed = true) : Starts s .pollFull (launched s)
  | pollFullUnarmed {cfg : DacConfiguration} (hs : Serving s cfg) (hfull : cfg.sweepPolicy = .fullSweepPerTrigger)
      (harmed : s.armed = false) : Starts s .pollFull s
  | pollSingle {cfg : DacConfiguration} (hs : Serving s cfg) (hsingle : cfg.sweepPolicy = .singleStepPerPoll)
      (harmed : s.armed = true) (hc : channelExists cfg cfg.activeChannel = true) :
      Starts s .pollSingle { s with work := pollSingleSubs s.build.pollOrder cfg s.direction s.currentValue }
  | pollSingleUnarmed {cfg : DacConfiguration} (hs : Serving s cfg) (hsingle : cfg.sweepPolicy = .singleStepPerPoll)
      (harmed : s.armed = false) : Starts s .pollSingle s
  | step {cfg : DacConfiguration} {v : Value} (hs : MidSweep s cfg)
      (hv : sweepValue (maxValue cfg.resolutionBits) s.stepIndex s.direction s.currentValue = .ok v) :
      Starts s .step { s with work := stepSubs cfg s.stepIndex s.direction v }

/-- The two conditions every transport command is under. -/
theorem whenServing_next {s t : State} {k : DacConfiguration → Result}
    (h : (s.whenReady fun cfg => s.whenFree (k cfg)) = .next t) : ∃ cfg, Serving s cfg ∧ k cfg = .next t := by
  obtain ⟨cfg, hr, h⟩ := whenReady_next h
  obtain ⟨hw, hp, h⟩ := whenFree_next h
  exact ⟨cfg, ⟨hr, hp, hw⟩, h⟩

/-- The conditions of a POLL row: its policy beside those of every command. -/
theorem whenPolled_next {s t : State} {p : SweepPolicy} {k : DacConfiguration → Result}
    (h : (s.whenReady fun cfg => require (decide (cfg.sweepPolicy = p)) .wrongPolicy <| s.whenFree (k cfg)) = .next t) :
    ∃ cfg, Serving s cfg ∧ cfg.sweepPolicy = p ∧ k cfg = .next t := by
  obtain ⟨cfg, hr, h⟩ := whenReady_next h
  obtain ⟨hpol, h⟩ := require_next h
  obtain ⟨hw, hp, h⟩ := whenFree_next h
  exact ⟨cfg, ⟨hr, hp, hw⟩, of_decide_eq_true hpol, h⟩

theorem startConfigure_next {s u : State} {o : CfgOperand} {interval : BitVec 32}
    (h : startConfigure o interval s = .next u) : Starts s (.configure o interval) u := by
  obtain ⟨hl, h⟩ := require_next h
  obtain ⟨hwf, h⟩ := require_next h
  obtain ⟨hw, hp, h⟩ := whenFree_next h
  split at h
  · next n hn => cases h; exact .configure interval (of_decide_eq_true hl) hwf hw hp hn
  · next hn => cases h; exact .invalidModel interval (of_decide_eq_true hl) hwf hw hp hn

theorem startPollSingle_next {s u : State} (h : startPollSingle s = .next u) : Starts s .pollSingle u := by
  obtain ⟨cfg, hs, hpol, h⟩ := whenPolled_next h
  split at h
  · next ha =>
    obtain ⟨hc, h⟩ := require_next h
    cases h
    exact .pollSingle hs hpol ha hc
  · next ha => cases h; exact .pollSingleUnarmed hs hpol (Bool.eq_false_of_not_eq_true ha)

theorem startPollFull_next {s u : State} (h : startPollFull s = .next u) : Starts s .pollFull u := by
  obtain ⟨cfg, hs, hpol, h⟩ := whenPolled_next h
  cases h
  split
  · next ha => exact .pollFull hs hpol ha
  · next ha => exact .pollFullUnarmed hs hpol (Bool.eq_false_of_not_eq_true ha)

theorem startStep_next {s u : State} (h : startStep s = .next u) : Starts s .step u := by
  obtain ⟨cfg, hr, h⟩ := whenReady_next h
  obtain ⟨hp, h⟩ := require_next h
  obtain ⟨hw, h⟩ := require_next h
  split at h
  · cases h
  · next v hv =>
    obtain ⟨hc, h⟩ := require_next h
    cases h
    exact .step ⟨hr, of_decide_eq_true hp, of_decide_eq_true hw, hc⟩ hv

/-- Beginning a sequenced instruction does one of the things listed, or stops. -/
theorem starts_of_start {i : Instr} {s u : State} (hi : sequenced i = true) (h : start i s = .next u) : Starts s i u := by
  cases i with
  | configure o interval => exact startConfigure_next h
  | write c v =>
    obtain ⟨cfg, hs, h⟩ := whenServing_next h
    obtain ⟨hc, h⟩ := require_next h
    cases h
    exact .write v hs ((channelExists_iff cfg c).1 hc)
  | writeBoth a b =>
    obtain ⟨cfg, hs, h⟩ := whenServing_next h
    obtain ⟨hd, h⟩ := require_next h
    cases h
    exact .writeBoth a b hs hd
  | latch =>
    obtain ⟨cfg, hs, h⟩ := whenServing_next h
    cases h
    exact .latch hs
  | shutdown =>
    obtain ⟨cfg, hs, h⟩ := whenServing_next h
    cases h
    exact .shutdown hs
  | pollFull => exact startPollFull_next h
  | pollSingle => exact startPollSingle_next h
  | step => exact startStep_next h
  | frameWrite12 _ _ _ _ | frameWrite10 _ _ _ _ | frameWrite8 _ _ _ _ | frameShutdown _ _ => cases hi
  | trigRise | trigFall | reset => cases hi

/-- No sequenced instruction begins inside another (rules R109(c), R146). -/
theorem Starts.work_nil {i : Instr} {s u : State} (h : Starts s i u) : s.work = [] := by
  cases h with
  | configure _ _ _ hw | invalidModel _ _ _ hw => exact hw
  | write _ hs | writeBoth _ _ hs | latch hs | shutdown hs | pollFull hs | pollFullUnarmed hs | pollSingle hs
  | pollSingleUnarmed hs => exact hs.2.2
  | step hs => exact hs.2.2.1

theorem exec_eq_complete {i : Instr} (hi : sequenced i = true) (s : State) : exec i s = complete (start i s) := by
  cases i with
  | configure | write | writeBoth | latch | shutdown | pollFull | pollSingle | step => rfl
  | frameWrite12 | frameWrite10 | frameWrite8 | frameShutdown | trigRise | trigFall | reset => cases hi

/-- A sequenced instruction run whole: begun as listed, and the rest done. -/
theorem exec_sequenced_next {i : Instr} {s t : State} (hi : sequenced i = true) (h : exec i s = .next t) :
    ∃ u, Starts s i u ∧ t = u.settle := by
  rw [exec_eq_complete hi] at h
  obtain ⟨u, hu, rfl⟩ := complete_next h
  exact ⟨u, starts_of_start hi hu, rfl⟩

/-! ### The transport commands run whole -/

theorem exec_write_next {s t : State} {c : Channel} {v : Nat} (h : exec (.write c v) s = .next t) :
    ∃ cfg, Serving s cfg ∧ (c = .A ∨ cfg.dualChannel = true) ∧ t = emitAll (busSendEvents (writeFrame cfg c v)) s := by
  obtain ⟨u, ⟨⟩, rfl⟩ := exec_sequenced_next rfl h
  next cfg hs hc =>
  rw [exec_write hs hc] at h
  exact ⟨cfg, hs, hc, (Host.Outcome.next.inj h).symm⟩

theorem exec_writeBoth_next {s t : State} {a b : Nat} (h : exec (.writeBoth a b) s = .next t) :
    ∃ cfg, Serving s cfg ∧ cfg.dualChannel = true ∧
      t = emitAll (busSendEvents (writeFrame cfg .A a) ++ busSendEvents (writeFrame cfg .B b) ++
        if cfg.autoLatchDual then latchEvents cfg else []) s := by
  obtain ⟨u, ⟨⟩, rfl⟩ := exec_sequenced_next rfl h
  next cfg hs hd =>
  rw [exec_writeBoth hs hd] at h
  exact ⟨cfg, hs, hd, (Host.Outcome.next.inj h).symm⟩

theorem exec_latch_next {s t : State} (h : exec .latch s = .next t) :
    ∃ cfg, Serving s cfg ∧ t = emitAll (latchEvents cfg) s := by
  obtain ⟨u, ⟨⟩, rfl⟩ := exec_sequenced_next rfl h
  next cfg hs =>
  rw [exec_latch hs] at h
  exact ⟨cfg, hs, (Host.Outcome.next.inj h).symm⟩

theorem exec_shutdown_next {s t : State} (h : exec .shutdown s = .next t) :
    ∃ cfg, Serving s cfg ∧ t = emitAll (busSendEvents (shutdownFrame s.build cfg)) s := by
  obtain ⟨u, ⟨⟩, rfl⟩ := exec_sequenced_next rfl h
  next cfg hs =>
  rw [exec_shutdown hs] at h
  exact ⟨cfg, hs, (Host.Outcome.next.inj h).symm⟩

/-! ### The frame rows -/

section
variable {s : State} {cfg : DacConfiguration} {n : Resolution} {ch : Channel} {buf : Bool} {gain : GainMode}

theorem writeFrameTransfer_of (hr : ReadyWith s cfg) (hsend : sendsWriteFrame cfg n ch buf gain = true) (f : Frame) :
    writeFrameTransfer n ch buf gain f s = .next (emitAll (busSendEvents f) s) := by
  rw [writeFrameTransfer, whenReady_of hr, hsend]
  rfl

theorem writeFrameTransfer_refused (hr : ReadyWith s cfg) (hsend : sendsWriteFrame cfg n ch buf gain = false) (f : Frame) :
    writeFrameTransfer n ch buf gain f s = .refused .frameNeverSent := by
  rw [writeFrameTransfer, whenReady_of hr, hsend]
  rfl

theorem sendsWriteFrame_iff : sendsWriteFrame cfg n ch buf gain = true ↔
    cfg.resolutionBits = n ∧ (ch = .A ∨ cfg.dualChannel = true) ∧ buf = cfg.bufferInput ∧ gain = cfg.gainMode := by
  simp [sendsWriteFrame, channelExists_iff, and_assoc]

theorem writeFrameTransfer_next {t : State} {f : Frame} (h : writeFrameTransfer n ch buf gain f s = .next t) :
    ∃ cfg, ReadyWith s cfg ∧ cfg.resolutionBits = n ∧ (ch = .A ∨ cfg.dualChannel = true) ∧ buf = cfg.bufferInput ∧
      gain = cfg.gainMode ∧ t = emitAll (busSendEvents f) s := by
  obtain ⟨cfg, hr, h⟩ := whenReady_next h
  obtain ⟨hsend, h⟩ := require_next h
  obtain ⟨hn, hc, hbuf, hgain⟩ := sendsWriteFrame_iff.1 hsend
  exact ⟨cfg, hr, hn, hc, hbuf, hgain, (Host.Outcome.next.inj h).symm⟩

theorem exec_frameShutdown (hr : ReadyWith s cfg) :
    exec (.frameShutdown cfg.bufferInput cfg.gainMode) s = .next (emitAll (busSendEvents (shutdownFrame s.build cfg)) s) := by
  rw [shutdownFrame_eq]
  simp only [exec, execFrameShutdown, whenReady_of hr, decide_true, Bool.and_self, require_true]
  rfl

theorem exec_frameShutdown_next {t : State} (h : exec (.frameShutdown buf gain) s = .next t) :
    ∃ cfg, ReadyWith s cfg ∧ buf = cfg.bufferInput ∧ gain = cfg.gainMode ∧
      t = emitAll (busSendEvents (shutdownFrame s.build cfg)) s := by
  obtain ⟨cfg, hr, hrest⟩ := whenReady_next h
  have hsend := (require_next hrest).1
  simp only [Bool.and_eq_true, decide_eq_true_eq] at hsend
  obtain ⟨rfl, rfl⟩ := hsend
  rw [exec_frameShutdown hr] at h
  exact ⟨cfg, hr, rfl, rfl, (Host.Outcome.next.inj h).symm⟩

/-- The frame of a write row of the configured resolution is the frame WRITE builds for the row's data (rule R87). -/
theorem frameWord12_eq_writeFrame (h : cfg.resolutionBits = .r12) (d : BitVec 12) :
    frameWord12 ch cfg.bufferInput cfg.gainMode d = writeFrame cfg ch d.toNat := by
  rw [writeFrameHasItsLayout cfg ch d.toNat, h]
  simp

theorem frameWord10_eq_writeFrame (h : cfg.resolutionBits = .r10) (d : BitVec 10) :
    frameWord10 ch cfg.bufferInput cfg.gainMode d = writeFrame cfg ch d.toNat := by
  rw [writeFrameHasItsLayout cfg ch d.toNat, h]
  simp

theorem frameWord8_eq_writeFrame (h : cfg.resolutionBits = .r8) (d : BitVec 8) :
    frameWord8 ch cfg.bufferInput cfg.gainMode d = writeFrame cfg ch d.toNat := by
  rw [writeFrameHasItsLayout cfg ch d.toNat, h]
  simp

end

/-! ### The pins -/

theorem exec_trigRise_next {s t : State} (h : exec .trigRise s = .next t) :
    s.trigActive = false ∧ t = takeTrigger true (armedAfterRise s.lifecycle s.armed) s := by
  obtain ⟨hoff, h⟩ := require_next h
  exact ⟨by simpa using hoff, (Host.Outcome.next.inj h).symm⟩

theorem exec_trigFall_next {s t : State} (h : exec .trigFall s = .next t) :
    s.trigActive = true ∧ t = takeTrigger false (armedAfterFall s.lifecycle s.cfg s.armed) s := by
  obtain ⟨hon, h⟩ := require_next h
  exact ⟨hon, (Host.Outcome.next.inj h).symm⟩

end Sys2Proof.Machine

/-! PROOFS. CONFIGURE, RESET and the trigger edges (rules R110, R141, R142, R170, R171, R200), and what every lifecycle refuses
(rules R109, R173). -/

namespace Sys2Proof.Machine

open Sys2Proof Sys2Proof.Safety

/-! ### Power-on and RESET -/

/-- Settles O11 (rule R39). -/
theorem powerOnValues : Obligations.PowerOnValues :=
  ⟨rfl, rfl, rfl, rfl, rfl, rfl, rfl, rfl, rfl, rfl, rfl, rfl⟩

@[simp] theorem pinsForcedHigh_input (l : Bool) (d : Dac) (c : Channel) : (d.pinsForcedHigh l).input c = d.input c := by
  cases l <;> cases c <;> rfl

theorem pinsForcedHigh_output (d : Dac) (c : Channel) : (d.pinsForcedHigh true).output c = d.output c := by
  cases c <;> rfl

/-- Settles O12 (rule R200): RESET writes its fields and no other; forcing the pins high keeps every input register. -/
theorem resetFromEveryState : Obligations.ResetFromEveryState := by
  intro s
  refine ⟨rfl, pinsForcedHigh_input s.ldacN s.dac, fun hhigh c => ?_⟩
  rw [hhigh, pinsForcedHigh_output]

/-! ### CONFIGURE -/

section
variable {s : State} {o : CfgOperand}

theorem CfgOperand_wellFormed_iff : o.wellFormed = true ↔ o.active = .A ∨ o.dual = true := by
  simp [CfgOperand.wellFormed, or_comm]

theorem supportedResolution_of_width {res : BitVec 4} {n : Resolution} (h : res.toNat = resolutionWidth n) :
    supportedResolution res = some n := by
  have hres : res = BitVec.ofNat 4 (resolutionWidth n) := by rw [← h, BitVec.ofNat_toNat, BitVec.setWidth_eq]
  rw [hres]
  cases n <;> rfl

theorem supportedResolution_none {res : BitVec 4} (h : ∀ n, res.toNat ≠ resolutionWidth n) :
    supportedResolution res = none := by
  have hne : ∀ n, res ≠ BitVec.ofNat 4 (resolutionWidth n) := by
    rintro n rfl
    exact h n (by cases n <;> rfl)
  simp only [supportedResolution, show res ≠ 8#4 from hne .r8, show res ≠ 10#4 from hne .r10,
    show res ≠ 12#4 from hne .r12, if_false]

/-- CONFIGURE with its conditions met (rule R110). -/
theorem exec_configure (hl : s.lifecycle = .unconfigured) (hp : s.phase = .idle) (hw : s.work = [])
    (hwf : o.wellFormed = true) (interval : BitVec 32) :
    exec (.configure o interval) s = .next
      (match supportedResolution o.res with
        | some n => configured n o interval s
        | none => raiseInvalidModel s) := by
  simp only [exec, execConfigure, startConfigure, hl, decide_true, hwf, require_true, whenFree_of hw hp]
  cases supportedResolution o.res with
  | some n => exact congrArg Host.Outcome.next (settle_of_idle hw)
  | none => exact congrArg Host.Outcome.next (settle_of_idle hw)

theorem armedAfterConfigure_eq (p : SweepPolicy) (trig armed : Bool) :
    armedAfterConfigure p trig armed = if p = .singleStepPerPoll then trig else armed := by
  cases p <;> rfl

/-- Settles O13 (rule R110). -/
theorem configureMakesReady : Obligations.ConfigureMakesReady := by
  intro s o interval n hl hp hw hactive hn
  rw [exec_configure hl hp hw (CfgOperand_wellFormed_iff.2 hactive), supportedResolution_of_width hn,
    ← armedAfterConfigure_eq]
  rfl

/-- Settles O14 (rules R92, R170): none of these `res` fields is a supported width. -/
theorem unsupportedResolutionRaisesInvalidModel : Obligations.UnsupportedResolutionRaisesInvalidModel := by
  intro s o interval hl hp hw hactive hres
  have hnone : ∀ n, o.res.toNat ≠ resolutionWidth n := by
    intro n
    cases n <;> simp only [resolutionWidth] <;> omega
  rw [exec_configure hl hp hw (CfgOperand_wellFormed_iff.2 hactive), supportedResolution_none hnone]
  rfl

theorem exec_configure_again (h : s.lifecycle ≠ .unconfigured) (interval : BitVec 32) :
    exec (.configure o interval) s = .refused .notUnconfigured := by
  simp only [exec, execConfigure, startConfigure, h, decide_false, require_false, complete_refused]

theorem exec_configure_noChannelB (hl : s.lifecycle = .unconfigured) (hwf : o.wellFormed = false) (interval : BitVec 32) :
    exec (.configure o interval) s = .refused .noChannelB := by
  simp only [exec, execConfigure, startConfigure, hl, decide_true, require_true, hwf, require_false, complete_refused]

/-- Settles O15 (rules R110, R173): the two conditions, in the order they are tried. -/
theorem configureIsRefused : Obligations.ConfigureIsRefused := by
  refine ⟨fun s o interval h => exec_configure_again h interval, fun s o interval hl hactive hdual => ?_⟩
  refine exec_configure_noChannelB hl ?_ interval
  simp [CfgOperand.wellFormed, hactive, hdual]

end

/-! ### The armed flag at an edge -/

theorem armedAfterRise_notReady {l : Lifecycle} (hl : l ≠ .ready) (armed : Bool) : armedAfterRise l armed = armed := by
  cases l with
  | ready => exact absurd rfl hl
  | unconfigured | halted => rfl

theorem armedAfterFall_notReady {l : Lifecycle} (hl : l ≠ .ready) (c : Option DacConfiguration) (armed : Bool) :
    armedAfterFall l c armed = armed := by
  cases l with
  | ready => exact absurd rfl hl
  | unconfigured | halted => rfl

theorem armedAfterFall_single {s : State} {cfg : DacConfiguration} (hr : ReadyWith s cfg)
    (h : cfg.sweepPolicy = .singleStepPerPoll) (armed : Bool) : armedAfterFall s.lifecycle s.cfg armed = false := by
  simp [armedAfterFall, hr.1, hr.2, h]

theorem armedAfterFall_full {s : State} {cfg : DacConfiguration} (hr : ReadyWith s cfg)
    (h : cfg.sweepPolicy = .fullSweepPerTrigger) (armed : Bool) : armedAfterFall s.lifecycle s.cfg armed = armed := by
  simp [armedAfterFall, hr.1, hr.2, h]

/-! ### What is refused -/

/-- Settles O25 (rules R109(b), R171, R91(e)): each of these instructions looks for a Ready block first. -/
theorem onlyReadyBlocksServe : Obligations.OnlyReadyBlocksServe := by
  intro i s hl hconf hreset hrise hfall
  cases i with
  | configure o n => exact absurd rfl (hconf o n)
  | reset => exact absurd rfl hreset
  | trigRise => exact absurd rfl hrise
  | trigFall => exact absurd rfl hfall
  | frameWrite12 | frameWrite10 | frameWrite8 | frameShutdown => exact whenReady_not hl _
  | write | writeBoth | latch | shutdown | pollFull | pollSingle | step => exact congrArg complete (whenReady_not hl _)

/-- Settles O16 (rule R171): outside Ready only CONFIGURE, RESET and the edges are not refused; a halted block refuses
CONFIGURE, and an edge leaves its armed flag. -/
theorem haltedBlockOnlyResets : Obligations.HaltedBlockOnlyResets := by
  intro i s t hl h
  have hready : s.lifecycle ≠ .ready := by simp [hl]
  by_cases hreset : i = .reset
  · exact .inl hreset
  by_cases hrise : i = .trigRise
  · subst hrise
    obtain ⟨hoff, rfl⟩ := exec_trigRise_next h
    exact .inr ⟨.inl rfl, by rw [armedAfterRise_notReady hready, hoff]; rfl⟩
  by_cases hfall : i = .trigFall
  · subst hfall
    obtain ⟨hon, rfl⟩ := exec_trigFall_next h
    exact .inr ⟨.inr rfl, by rw [armedAfterFall_notReady hready, hon]; rfl⟩
  by_cases hconf : ∃ o n, i = .configure o n
  · obtain ⟨o, n, rfl⟩ := hconf
    rw [exec_configure_again (by simp [hl])] at h
    cases h
  · rw [onlyReadyBlocksServe i s hready (fun o n e => hconf ⟨o, n, e⟩) hreset hrise hfall] at h
    cases h

section
variable {s : State} {cfg : DacConfiguration}

/-- A command held: its block is Ready and inside another operation or a sweep (rules R109(c), R146). -/
theorem whenServing_held (hr : ReadyWith s cfg) (h : s.phase = .sweeping) (k : DacConfiguration → Result) :
    complete (s.whenReady fun cfg => s.whenFree (k cfg)) = .refused .held := by
  rw [whenReady_of hr, whenFree_not (by simp [h])]
  rfl

theorem exec_pollSingle_held (hr : ReadyWith s cfg) (h : s.phase = .sweeping)
    (hsingle : cfg.sweepPolicy = .singleStepPerPoll) : exec .pollSingle s = .refused .held := by
  simp only [exec, execPollSingle, startPollSingle, whenReady_of hr, hsingle, decide_true, require_true,
    whenFree_not (show ¬(s.work = [] ∧ s.phase = .idle) by simp [h]), complete_refused]

theorem exec_pollSingle_wrongPolicy (hr : ReadyWith s cfg) (h : cfg.sweepPolicy ≠ .singleStepPerPoll) :
    exec .pollSingle s = .refused .wrongPolicy := by
  simp only [exec, execPollSingle, startPollSingle, whenReady_of hr, h, decide_false, require_false, complete_refused]

theorem exec_step_idle (hr : ReadyWith s cfg) (h : s.phase = .idle) : exec .step s = .refused .notSweeping := by
  simp only [exec, execStep, startStep, whenReady_of hr, h, reduceCtorEq, decide_false, require_false, complete_refused]

theorem exec_write_noChannelB (hs : Serving s cfg) (hd : cfg.dualChannel = false) (v : Nat) :
    exec (.write .B v) s = .refused .noChannelB := by
  obtain ⟨hr, hp, hw⟩ := hs
  simp [exec, execWrite, startWrite, whenReady_of hr, whenFree_of hw hp, channelExists, hd]

theorem exec_writeBoth_noChannelB (hs : Serving s cfg) (hd : cfg.dualChannel = false) (a b : Nat) :
    exec (.writeBoth a b) s = .refused .noChannelB := by
  obtain ⟨hr, hp, hw⟩ := hs
  simp [exec, execWriteBoth, startWriteBoth, whenReady_of hr, whenFree_of hw hp, hd]

end

/-- Settles O26 (rules R109(c), R111, R113, R143, R144, R147): the conditions of each row after the lifecycle's. -/
theorem commandsRefusedWhileReady : Obligations.CommandsRefusedWhileReady := by
  refine ⟨fun s cfg c v a b hr hp => ?sweeping, fun s cfg v a b hs hd => ?single, fun s cfg hr => ?row⟩
  case sweeping =>
    exact ⟨whenServing_held hr hp _, whenServing_held hr hp _, whenServing_held hr hp _, whenServing_held hr hp _,
      fun hfull => exec_pollFull_held hr hfull (by simp [hp]), exec_pollSingle_held hr hp⟩
  case single => exact ⟨exec_write_noChannelB hs hd v, exec_writeBoth_noChannelB hs hd a b⟩
  case row =>
    exact ⟨fun hpol => exec_pollFull_wrongPolicy hr (by simp [hpol]),
      fun hpol => exec_pollSingle_wrongPolicy hr (by simp [hpol]), exec_step_idle hr⟩

/-! ### The trigger edges -/

/-- Settles O40 (rule R141). -/
theorem activeEdgeArms : Obligations.ActiveEdgeArms := by
  refine ⟨fun s hoff => ?inactive, fun s hon => ?active⟩
  case inactive =>
    have harmed : armedAfterRise s.lifecycle s.armed = (s.armed || decide (s.lifecycle = .ready)) := by
      cases s.lifecycle <;> simp [armedAfterRise]
    rw [exec, execTrigRise, hoff, harmed]
    rfl
  case active =>
    rw [exec, execTrigRise, hon]
    rfl

theorem exec_trigFall {s : State} (hon : s.trigActive = true) :
    exec .trigFall s = .next (takeTrigger false (armedAfterFall s.lifecycle s.cfg s.armed) s) := by
  rw [exec, execTrigFall, hon, require_true]

/-- Settles O41 (rule R142). -/
theorem inactiveEdgeDisarmsSingleStep : Obligations.InactiveEdgeDisarmsSingleStep := by
  refine ⟨fun s hon => ⟨fun cfg hr hpol => ?single, fun cfg hr hpol => ?full, fun hl => ?notReady⟩, fun s hoff => ?inactive⟩
  case single => rw [exec_trigFall hon, armedAfterFall_single hr hpol]; rfl
  case full => rw [exec_trigFall hon, armedAfterFall_full hr hpol]; rfl
  case notReady => rw [exec_trigFall hon, armedAfterFall_notReady hl]; rfl
  case inactive => rw [exec, execTrigFall, hoff]; rfl

/-- Settles O42 (rules R33, R97): the transition the pin shows, read by the polarity. -/
theorem polaritySaysWhichEdgeIsActive : Obligations.PolaritySaysWhichEdgeIsActive := by
  intro s high rest hscript
  refine ⟨fun hpol ht hh => ?_, fun hpol ht hh => ?_, fun hpol ht hh => ?_, fun hpol ht hh => ?_⟩
  all_goals
    rw [step, takeMove, hscript]
    simp only [hpol, ht, hh]
    rfl

end Sys2Proof.Machine

/-! PROOFS. The transport commands and the frame rows (rules R87 to R91, R111 to R117): what each appends to the trace, and
the frames among it. -/

namespace Sys2Proof.Machine

open Sys2Proof Sys2Proof.Safety

/-! ### The exact next states -/

/-- Settles O18 (rule R111). -/
theorem writeSendsOneFrame : Obligations.WriteSendsOneFrame := by
  intro s cfg c v hs hc
  rw [exec_write hs hc, emitAll_busSend]

/-- Settles O19 (rule R113). -/
theorem writeBothKeepsItsOrder : Obligations.WriteBothKeepsItsOrder := by
  intro s cfg a b hs hd
  rw [exec_writeBoth hs hd, emitAll_eq, autoLatch_events]
  simp only [List.foldl_append, csAfter_busSend, ldacAfter_busSend]
  cases cfg.autoLatchDual <;> cases cfg.latchLinePresent <;> rfl

/-- Settles O20 (rule R114). -/
theorem latchPulsesOrDoesNothing : Obligations.LatchPulsesOrDoesNothing := by
  intro s cfg hs
  rw [exec_latch hs, emitAll_latch]
  cases h : cfg.latchLinePresent <;> simp [latchEvents, ldacAfterLatch, h]

/-- Settles O21 (rule R115). -/
theorem shutdownSendsOneFrame : Obligations.ShutdownSendsOneFrame := by
  intro s cfg hs
  rw [exec_shutdown hs, emitAll_busSend, shutdownFrame_eq]

/-- Settles O27 (rules R87, R88). -/
theorem writeFrameRowsTransfer : Obligations.WriteFrameRowsTransfer := by
  intro s cfg c hr hc
  have hsend (n : Resolution) (hn : cfg.resolutionBits = n) (f : Frame) :
      writeFrameTransfer n c cfg.bufferInput cfg.gainMode f s = .next { sent s (busSendEvents f) with csN := true } := by
    rw [writeFrameTransfer_of hr (sendsWriteFrame_iff.2 ⟨hn, hc, rfl, rfl⟩), emitAll_busSend]
  exact ⟨fun hn _ => hsend .r12 hn _, fun hn _ => hsend .r10 hn _, fun hn _ => hsend .r8 hn _⟩

/-- Settles O28 (rules R25, R89). -/
theorem shutdownFrameRowTransfers : Obligations.ShutdownFrameRowTransfers := by
  intro s cfg hr
  rw [exec_frameShutdown hr, emitAll_busSend, shutdownFrame_eq]

/-- Settles O29 (rule R91): each case fails one of the conditions of `sendsWriteFrame`. -/
theorem framesNeverSentAreRefused : Obligations.FramesNeverSentAreRefused := by
  intro s cfg c buf gain hr
  have hrefused (n : Resolution) (h : ¬sendsWriteFrame cfg n c buf gain = true) (f : Frame) :
      writeFrameTransfer n c buf gain f s = .refused .frameNeverSent :=
    writeFrameTransfer_refused hr (Bool.eq_false_of_not_eq_true h) f
  simp only [sendsWriteFrame_iff] at hrefused
  refine ⟨fun hflags => ?flags, fun hchan => ?channel, ?_, ?_, ?_⟩
  case flags =>
    have hno (n : Resolution) (f : Frame) : writeFrameTransfer n c buf gain f s = .refused .frameNeverSent :=
      hrefused n (fun ⟨_, _, hbuf, hgain⟩ => hflags.elim (· hbuf) (· hgain)) f
    refine ⟨fun _ => hno .r12 _, fun _ => hno .r10 _, fun _ => hno .r8 _, ?_⟩
    have hoff : (decide (buf = cfg.bufferInput) && decide (gain = cfg.gainMode)) = false := by
      simpa [imp_iff_not_or] using hflags
    simp only [exec, execFrameShutdown, whenReady_of hr, hoff, require_false]
  case channel =>
    have hno (n : Resolution) (f : Frame) : writeFrameTransfer n c buf gain f s = .refused .frameNeverSent :=
      hrefused n (fun ⟨_, hc, _, _⟩ => by simp [hchan.1, hchan.2] at hc) f
    exact ⟨fun _ => hno .r12 _, fun _ => hno .r10 _, fun _ => hno .r8 _⟩
  all_goals exact fun hn _ => hrefused _ (fun ⟨h, _⟩ => hn h) _

/-! ### Two runs compared -/

theorem shutdownFrame_active (b : Build) (cfg : DacConfiguration) : (shutdownFrame b cfg).getLsbD 12 = false := by
  rw [shutdownFrame_getLsbD, headerBits_getLsbD]
  simp

theorem shutdownFrame_buffer (b : Build) (cfg : DacConfiguration) :
    (shutdownFrame b cfg).getLsbD 14 = cfg.bufferInput := by
  rw [shutdownFrame_getLsbD, headerBits_getLsbD]
  simp

theorem writeFrame_active (cfg : DacConfiguration) (c : Channel) (v : Nat) : (writeFrame cfg c v).getLsbD 12 = true := by
  rw [writeFrame_getLsbD, headerBits_getLsbD]
  simp

theorem writeFrame_buffer (cfg : DacConfiguration) (c : Channel) (v : Nat) :
    (writeFrame cfg c v).getLsbD 14 = cfg.bufferInput := by
  rw [writeFrame_getLsbD, headerBits_getLsbD]
  simp

/-- Settles O23 (rule R116): both frames carry the configured buffer and gain bits, and SHUTDOWN leaves the block serving
under the same configuration. -/
theorem shutdownRoundTrip : Obligations.ShutdownRoundTrip := by
  intro s cfg c v hs hc
  constructor
  · apply BitVec.eq_of_getLsbD_eq
    intro i hi
    rw [BitVec.getLsbD_extractLsb', BitVec.getLsbD_extractLsb']
    have : i = 0 ∨ i = 1 := by omega
    rcases this with rfl | rfl
    · rw [shutdownFrame_gain, writeFrame_gain]
    · rw [shutdownFrame_buffer, writeFrame_buffer]
  · exact ⟨_, _, _, exec_shutdown hs, exec_write (serving_emitAll hs _) hc v, exec_write hs hc v, _, emitAll_trace _ _,
      emitAll_trace _ _⟩

/-- Two states serving under one configuration hold the same record. -/
theorem readyWith_unique {s : State} {cfg cfg' : DacConfiguration} (h : ReadyWith s cfg) (h' : ReadyWith s cfg') :
    cfg' = cfg := by
  have := h.2.symm.trans h'.2
  exact (Option.some.inj this).symm

/-- Settles O24 (rule R117): each operation is a list of events written from the record, the build and the operands. -/
theorem encoderIgnoresTheWaveform : Obligations.EncoderIgnoresTheWaveform := by
  intro i s s' t cfg hi hs hs' hb h
  rcases hi with ⟨c, v, rfl⟩ | ⟨a, b, rfl⟩ | rfl | rfl
  · obtain ⟨cfg', hs₁, hc, rfl⟩ := exec_write_next h
    obtain rfl := readyWith_unique hs.1 hs₁.1
    exact ⟨_, _, exec_write hs' hc v, emitAll_trace _ _, emitAll_trace _ _⟩
  · obtain ⟨cfg', hs₁, hd, rfl⟩ := exec_writeBoth_next h
    obtain rfl := readyWith_unique hs.1 hs₁.1
    exact ⟨_, _, exec_writeBoth hs' hd a b, emitAll_trace _ _, emitAll_trace _ _⟩
  · obtain ⟨cfg', hs₁, rfl⟩ := exec_latch_next h
    obtain rfl := readyWith_unique hs.1 hs₁.1
    exact ⟨_, _, exec_latch hs', emitAll_trace _ _, emitAll_trace _ _⟩
  · obtain ⟨cfg', hs₁, rfl⟩ := exec_shutdown_next h
    obtain rfl := readyWith_unique hs.1 hs₁.1
    exact ⟨_, _, exec_shutdown hs', emitAll_trace _ _, hb ▸ emitAll_trace _ _⟩

/-! ### Operations and the frame rows they send -/

section
variable {s : State} {cfg : DacConfiguration}

theorem deviceBuild_of_ready (hr : ReadyWith s cfg) : s.deviceBuild = deviceBuild s.build cfg := by
  simp [State.deviceBuild, hr.2]

theorem mode_of_ready (hr : ReadyWith s cfg) : s.mode = ⟨cfg.resolutionBits, cfg.sweepPolicy⟩ := by
  simp [State.mode, hr.2]

/-- A frame of WRITE is a row of the configured resolution, transferred whole (rules R87, R90). -/
theorem writeFrame_row (hr : ReadyWith s cfg) {c : Channel} (hc : c = .A ∨ cfg.dualChannel = true) (v : Nat) :
    ∃ i, decodeFrame s.deviceBuild s.mode.res (writeFrame cfg c v) = .ok i ∧
      exec i s = .next (emitAll (busSendEvents (writeFrame cfg c v)) s) := by
  rw [mode_of_ready hr, writeFrameHasItsLayout cfg c v]
  have hsend : sendsWriteFrame cfg cfg.resolutionBits c cfg.bufferInput cfg.gainMode = true :=
    sendsWriteFrame_iff.2 ⟨rfl, hc, rfl, rfl⟩
  generalize cfg.resolutionBits = n at hsend ⊢
  cases n with
  | r12 => exact ⟨_, decodeFrame_frameWord12 _ _ _ _ _, writeFrameTransfer_of hr hsend _⟩
  | r10 => exact ⟨_, decodeFrame_frameWord10 _ _ _ _ _, writeFrameTransfer_of hr hsend _⟩
  | r8 => exact ⟨_, decodeFrame_frameWord8 _ _ _ _ _, writeFrameTransfer_of hr hsend _⟩

theorem shutdownFrame_row (hr : ReadyWith s cfg) (n : Resolution) :
    decodeFrame s.deviceBuild n (shutdownFrame s.build cfg) = .ok (.frameShutdown cfg.bufferInput cfg.gainMode) := by
  rw [shutdownFrame_eq, deviceBuild_of_ready hr, decodeFrame_frameWordShutdown]

end

/-- Settles O30 (rules R90, R111, R115): the operation and the row are the same transfer. -/
theorem operationsRunTheirFrameRows : Obligations.OperationsRunTheirFrameRows := by
  intro s cfg c v hs hc
  constructor
  · obtain ⟨i, hi, hexec⟩ := writeFrame_row hs.1 hc v
    exact ⟨i, hi, (exec_write hs hc v).trans hexec.symm⟩
  · exact ⟨_, shutdownFrame_row hs.1 _, (exec_shutdown hs).trans (exec_frameShutdown hs.1).symm⟩

end Sys2Proof.Machine

/-! PROOFS. The sequencer's operations run whole: POLL under SingleStepPerPoll and STEP (rules R144, R147, R150, R153). -/

namespace Sys2Proof.Machine

open Sys2Proof Sys2Proof.Safety

/-! ### One output of a ramp -/

/-- The frame, the pulse and the wait of one output sent, every other field as it was (rules R144, R147). -/
def outputDone (cfg : DacConfiguration) (v : Value) (s : State) : State :=
  { sent s (outputEvents cfg v) with csN := true, ldacN := ldacAfterLatch cfg s.ldacN }

@[simp] theorem outputDone_direction (cfg : DacConfiguration) (v : Value) (s : State) :
    (outputDone cfg v s).direction = s.direction := rfl

theorem runSubs_outputDone (cfg : DacConfiguration) (v : Value) (s : State) :
    runSubs (outputSubs cfg v) s = outputDone cfg v s := runSubs_output cfg v s

/-- An output neither reads nor writes the direction and the counter. -/
theorem outputDone_withCounter (cfg : DacConfiguration) (v w : Value) (d : Direction) (s : State) :
    outputDone cfg v { s with direction := d, currentValue := w } =
      { outputDone cfg v s with direction := d, currentValue := w } := by
  simp only [outputDone, sent, State.latchLine]

/-! ### POLL under SingleStepPerPoll -/

/-- Where an armed poll moves the direction and the counter (rule R147). -/
def triangleNext (cfg : DacConfiguration) (s : State) : Direction × Value :=
  triangleAdvance (maxValue cfg.resolutionBits) (s.direction, s.currentValue)

/-- The value an armed poll sends: the new one or, in the other order, the old one (rule R150). -/
def polledValue (cfg : DacConfiguration) (s : State) : Value :=
  if s.build.pollOrder = .advanceThenEmit then (triangleNext cfg s).2 else s.currentValue

/-- What an armed poll leaves (rules R147, R150). -/
def polled (cfg : DacConfiguration) (s : State) : State :=
  { outputDone cfg (polledValue cfg s) s with
    direction := (triangleNext cfg s).1
    currentValue := (triangleNext cfg s).2 }

theorem runSubs_advance {s : State} {d : Direction} (hd : s.direction = d) (v : Value) (after : Direction × Value) :
    runSubs (advanceSubs (d, v) after) s = { s with direction := after.1, currentValue := after.2 } := by
  unfold advanceSubs
  split
  · next h => simp only at h; subst hd; cases s; cases h; rfl
  · rfl

theorem runSubs_pollSingle (cfg : DacConfiguration) (s : State) :
    runSubs (pollSingleSubs s.build.pollOrder cfg s.direction s.currentValue) s = polled cfg s := by
  unfold pollSingleSubs polled polledValue triangleNext
  cases s.build.pollOrder with
  | advanceThenEmit => simp only [runSubs_append, runSubs_advance rfl, runSubs_outputDone, if_true, outputDone_withCounter]
  | emitThenAdvance =>
    simp only [runSubs_append, runSubs_outputDone, reduceCtorEq, if_false,
      runSubs_advance (outputDone_direction cfg s.currentValue s)]

section
variable {s : State} {cfg : DacConfiguration}

theorem exec_pollSingle (hs : Serving s cfg) (hsingle : cfg.sweepPolicy = .singleStepPerPoll) (harmed : s.armed = true)
    (hc : channelExists cfg cfg.activeChannel = true) : exec .pollSingle s = .next (polled cfg s) := by
  obtain ⟨hr, hp, hw⟩ := hs
  simp only [exec, execPollSingle, startPollSingle, whenReady_of hr, decide_eq_true hsingle, require_true,
    whenFree_of hw hp, if_pos harmed, hc, complete_next_eq, settle_withWork hw, runSubs_pollSingle]

theorem exec_pollSingle_unarmed (hs : Serving s cfg) (hsingle : cfg.sweepPolicy = .singleStepPerPoll)
    (harmed : s.armed = false) : exec .pollSingle s = .next s := by
  obtain ⟨hr, hp, hw⟩ := hs
  simp only [exec, execPollSingle, startPollSingle, whenReady_of hr, hsingle, decide_true, require_true, whenFree_of hw hp,
    harmed, Bool.false_eq_true, if_false, complete_next_eq, settle_of_idle hw]

end

/-- Settles O44 (rules R147, R150): the pair named is `triangleAdvance`'s, case by case. -/
theorem pollSingleAdvancesByOne : Obligations.PollSingleAdvancesByOne := by
  intro s cfg hs hsingle
  refine ⟨exec_pollSingle_unarmed hs hsingle, fun harmed hc d v htop hup hbottom hdown => ?_⟩
  have hnext : triangleNext cfg s = (d, v) := by
    unfold triangleNext
    cases hd : s.direction with
    | ascending =>
      by_cases hv : s.currentValue = maxValue cfg.resolutionBits
      · obtain ⟨rfl, rfl⟩ := htop hd hv
        simp only [triangleAdvance, hv, if_true]
      · obtain ⟨rfl, rfl⟩ := hup hd hv
        simp only [triangleAdvance, hv, if_false]
    | descending =>
      by_cases hv : s.currentValue = 0
      · obtain ⟨rfl, rfl⟩ := hbottom hd hv
        simp only [triangleAdvance, hv, if_true]
      · obtain ⟨rfl, rfl⟩ := hdown hd hv
        simp only [triangleAdvance, hv, if_false]
  simp only [exec_pollSingle hs hsingle harmed ((channelExists_iff _ _).2 hc), polled, polledValue, hnext, outputDone]

/-! ### STEP -/

/-- What a step of a sweep that sends `v` leaves (rule R144). -/
def stepped (cfg : DacConfiguration) (v : Value) (s : State) : State :=
  if s.stepIndex = maxValue cfg.resolutionBits then
    { outputDone cfg v s with currentValue := v, direction := s.direction.flip, phase := .idle, stepIndex := 0 }
  else { outputDone cfg v s with currentValue := v, stepIndex := s.stepIndex + 1 }

/-- The first step of a sweep leaves the counter alone (decision D13). -/
theorem runSubs_stepValue {s : State} {v : Value} (h : s.stepIndex = 0 → v = s.currentValue) :
    runSubs (if s.stepIndex = 0 then [] else [.setValue v]) s = { s with currentValue := v } := by
  split
  · next h0 => rw [h h0]; rfl
  · rfl

theorem runSubs_close (mx index : Value) (d : Direction) (s : State) :
    runSubs (closeSubs mx index d) s =
      if index = mx then { s with direction := d.flip, phase := .idle, stepIndex := 0 }
      else { s with stepIndex := index + 1 } := by
  unfold closeSubs
  split <;> rfl

theorem runSubs_step {cfg : DacConfiguration} {v : Value} {s : State} (h : s.stepIndex = 0 → v = s.currentValue) :
    runSubs (stepSubs cfg s.stepIndex s.direction v) s = stepped cfg v s := by
  simp only [stepSubs, runSubs_append, runSubs_stepValue h, runSubs_outputDone, runSubs_close, outputDone_withCounter,
    outputDone_direction, stepped]

/-- The first step of a sweep sends the counter as it is. -/
theorem sweepValue_first {mx index v w : Value} {d : Direction} (h : sweepValue mx index d v = .ok w) (h0 : index = 0) :
    w = v := by
  rcases sweepValue_ok h with ⟨-, -, rfl⟩ | ⟨hne, -⟩ | ⟨hne, -⟩
  · rfl
  · exact absurd h0 hne
  · exact absurd h0 hne

section
variable {s : State} {cfg : DacConfiguration} {v : Value}

theorem exec_step (hs : MidSweep s cfg)
    (hv : sweepValue (maxValue cfg.resolutionBits) s.stepIndex s.direction s.currentValue = .ok v) :
    exec .step s = .next (stepped cfg v s) := by
  obtain ⟨hr, hp, hw, hc⟩ := hs
  simp only [exec, execStep, startStep, whenReady_of hr, decide_eq_true hp, decide_eq_true hw, hv, hc, require_true,
    complete_next_eq, settle_withWork hw, runSubs_step (sweepValue_first hv)]

theorem exec_step_fault (hr : ReadyWith s cfg) (hp : s.phase = .sweeping) (hw : s.work = []) {f : Fault}
    (hf : sweepValue (maxValue cfg.resolutionBits) s.stepIndex s.direction s.currentValue = .error f) :
    exec .step s = .fault f := by
  simp only [exec, execStep, startStep, whenReady_of hr, decide_eq_true hp, decide_eq_true hw, hf, require_true,
    complete_fault]

end

theorem flip_eq_ite (d : Direction) : d.flip = if d = .ascending then .descending else .ascending := by cases d <;> rfl

/-- The value a step sends, from where it stands on its ramp (rules R144, R153). -/
theorem sweepValue_of {cfg : DacConfiguration} {index w v : Value} {d : Direction}
    (hfirst : index = 0 → v = w ∧ AtEndpoint cfg v d)
    (hup : index ≠ 0 → d = .ascending → w.toNat < (maxValue cfg.resolutionBits).toNat ∧ v = w + 1)
    (hdown : index ≠ 0 → d = .descending →
      0 < w.toNat ∧ w.toNat ≤ (maxValue cfg.resolutionBits).toNat ∧ v = w - 1) :
    sweepValue (maxValue cfg.resolutionBits) index d w = .ok v := by
  unfold sweepValue
  by_cases hi : index = 0
  · obtain ⟨rfl, hend⟩ := hfirst hi
    rw [if_pos hi, if_pos ((startsAtEndpoint_iff cfg d v).2 hend)]
  · rw [if_neg hi]
    cases d with
    | ascending =>
      obtain ⟨hlt, rfl⟩ := hup hi rfl
      exact if_pos hlt
    | descending =>
      obtain ⟨hpos, hle, rfl⟩ := hdown hi rfl
      exact if_pos ⟨hpos, by omega⟩

/-- Settles O45 (rule R144). -/
theorem stepSendsAndCounts : Obligations.StepSendsAndCounts := by
  intro s cfg v hs hfirst hup hdown
  rw [exec_step hs (sweepValue_of hfirst hup hdown), stepped, ← flip_eq_ite]
  exact ⟨fun hlast => by simp only [if_pos hlast, outputDone], fun hmore => by simp only [if_neg hmore, outputDone]⟩

/-- Settles O46 (rule R153): off its endpoint, and at each way out of the range, no value can be sent. -/
theorem stepLeavingItsRangeFaults : Obligations.StepLeavingItsRangeFaults := by
  intro s cfg hr hp hw
  refine ⟨fun hi hend => exec_step_fault hr hp hw ?_, fun hi hd hv => exec_step_fault hr hp hw ?_,
    fun hi hd hv => exec_step_fault hr hp hw ?_, fun hi hd hv => exec_step_fault hr hp hw ?_⟩
  · simp only [sweepValue, if_pos hi]
    exact if_neg (mt (startsAtEndpoint_iff cfg _ _).1 hend)
  · simp only [sweepValue, if_neg hi, hd]
    exact if_neg (by omega)
  · simp only [sweepValue, if_neg hi, hd, hv]
    exact if_neg (by simp)
  · simp only [sweepValue, if_neg hi, hd]
    exact if_neg (by omega)

end Sys2Proof.Machine

/-! PROOFS. Everything an instruction puts on the wire (rules R52, R84, R91), and what a command makes of the status outputs
(rule R184). -/

namespace Sys2Proof.Machine

open Sys2Proof Sys2Proof.Safety

/-! ### The sequencer's operations inverted -/

theorem exec_configure_trace {s t : State} {o : CfgOperand} {interval : BitVec 32}
    (h : exec (.configure o interval) s = .next t) : t.trace = s.trace := by
  obtain ⟨u, hu, rfl⟩ := exec_sequenced_next rfl h
  cases hu with
  | configure _ _ _ hw => rw [settle_of_idle (show (configured _ _ _ s).work = [] from hw)]; rfl
  | invalidModel _ _ _ hw => rw [settle_of_idle (show (raiseInvalidModel s).work = [] from hw)]; rfl

theorem exec_pollFull_next {s t : State} (h : exec .pollFull s = .next t) :
    ∃ cfg, Serving s cfg ∧ cfg.sweepPolicy = .fullSweepPerTrigger ∧
      (s.armed = true ∧ t = launched s ∨ s.armed = false ∧ t = s) := by
  obtain ⟨u, hu, rfl⟩ := exec_sequenced_next rfl h
  cases hu with
  | pollFull hs hfull harmed =>
    exact ⟨_, hs, hfull, .inl ⟨harmed, settle_of_idle (show (launched s).work = [] from hs.2.2)⟩⟩
  | pollFullUnarmed hs hfull harmed => exact ⟨_, hs, hfull, .inr ⟨harmed, settle_of_idle hs.2.2⟩⟩

theorem exec_pollSingle_next {s t : State} (h : exec .pollSingle s = .next t) :
    ∃ cfg, Serving s cfg ∧ cfg.sweepPolicy = .singleStepPerPoll ∧
      (s.armed = true ∧ channelExists cfg cfg.activeChannel = true ∧ t = polled cfg s ∨ s.armed = false ∧ t = s) := by
  obtain ⟨u, hu, rfl⟩ := exec_sequenced_next rfl h
  cases hu with
  | pollSingle hs hsingle harmed hc =>
    exact ⟨_, hs, hsingle, .inl ⟨harmed, hc, by rw [settle_withWork hs.2.2, runSubs_pollSingle]⟩⟩
  | pollSingleUnarmed hs hsingle harmed => exact ⟨_, hs, hsingle, .inr ⟨harmed, settle_of_idle hs.2.2⟩⟩

theorem exec_step_next {s t : State} (h : exec .step s = .next t) :
    ∃ cfg v, MidSweep s cfg ∧
      sweepValue (maxValue cfg.resolutionBits) s.stepIndex s.direction s.currentValue = .ok v ∧ t = stepped cfg v s := by
  obtain ⟨u, hu, rfl⟩ := exec_sequenced_next rfl h
  cases hu with
  | step hs hv => exact ⟨_, _, hs, hv, by rw [settle_withWork hs.2.2.1, runSubs_step (sweepValue_first hv)]⟩

@[simp] theorem polled_trace (cfg : DacConfiguration) (s : State) :
    (polled cfg s).trace = s.trace ++ outputEvents cfg (polledValue cfg s) := rfl

@[simp] theorem stepped_trace (cfg : DacConfiguration) (v : Value) (s : State) :
    (stepped cfg v s).trace = s.trace ++ outputEvents cfg v := by
  unfold stepped
  split <;> rfl

/-! ### Whole transfers -/

/-- The events are whole transfers, every frame among them satisfying `P`. -/
def WholeTransfers (P : Frame → Prop) (es : List Event) : Prop :=
  ∃ ts : List Transfer, es = ts.flatMap Transfer.events ∧ ∀ f, Transfer.frame f ∈ ts → P f

section
variable {P : Frame → Prop}

theorem WholeTransfers.nil : WholeTransfers P [] := ⟨[], rfl, fun _ h => absurd h List.not_mem_nil⟩

theorem WholeTransfers.append {es fs : List Event} (h : WholeTransfers P es) (h' : WholeTransfers P fs) :
    WholeTransfers P (es ++ fs) := by
  obtain ⟨ts, rfl, hts⟩ := h
  obtain ⟨us, rfl, hus⟩ := h'
  exact ⟨ts ++ us, List.flatMap_append.symm, fun f hf => (List.mem_append.1 hf).elim (hts f) (hus f)⟩

theorem WholeTransfers.frame {f : Frame} (h : P f) : WholeTransfers P (busSendEvents f) :=
  ⟨[.frame f], (List.flatMap_singleton ..).symm, fun g hg => by
    obtain rfl : g = f := by simpa using hg
    exact h⟩

theorem WholeTransfers.latch (cfg : DacConfiguration) : WholeTransfers P (latchEvents cfg) := by
  unfold latchEvents
  split
  · exact ⟨[.pulse], rfl, fun f hf => by simp at hf⟩
  · exact .nil

theorem WholeTransfers.delay (cfg : DacConfiguration) : WholeTransfers P (delayEvents cfg) :=
  ⟨[.wait cfg.stepIntervalMicros.toNat], rfl, fun f hf => by simp at hf⟩

theorem WholeTransfers.output {cfg : DacConfiguration} {v : Value} (h : P (writeFrame cfg cfg.activeChannel v.toNat)) :
    WholeTransfers P (outputEvents cfg v) :=
  ((WholeTransfers.frame h).append (.latch cfg)).append (.delay cfg)

theorem WholeTransfers.mono {Q : Frame → Prop} {es : List Event} (h : WholeTransfers P es) (hPQ : ∀ f, P f → Q f) :
    WholeTransfers Q es := by
  obtain ⟨ts, rfl, hts⟩ := h
  exact ⟨ts, rfl, fun f hf => hPQ f (hts f hf)⟩

end

/-- The frames an instruction may send from a state: write frames to a channel the device has, and the shutdown frame for
SHUTDOWN and its row. -/
def MaySend (i : Instr) (s : State) (f : Frame) : Prop :=
  ∃ cfg, ReadyWith s cfg ∧
    ((∃ c v, (c = .A ∨ cfg.dualChannel = true) ∧ f = writeFrame cfg c v) ∨
      ((i = .shutdown ∨ ∃ buf gain, i = .frameShutdown buf gain) ∧ f = shutdownFrame s.build cfg))

theorem maySend_write {i : Instr} {s : State} {cfg : DacConfiguration} (hr : ReadyWith s cfg) {c : Channel}
    (hc : c = .A ∨ cfg.dualChannel = true) (v : Nat) : MaySend i s (writeFrame cfg c v) :=
  ⟨cfg, hr, .inl ⟨c, v, hc, rfl⟩⟩

theorem maySend_output {i : Instr} {s : State} {cfg : DacConfiguration} (hr : ReadyWith s cfg)
    (hc : channelExists cfg cfg.activeChannel = true) (v : Nat) : MaySend i s (writeFrame cfg cfg.activeChannel v) :=
  maySend_write hr ((channelExists_iff _ _).1 hc) v

/-- Every instruction appends whole transfers of frames it may send. -/
theorem exec_transfers {i : Instr} {s t : State} (h : exec i s = .next t) :
    ∃ es, t.trace = s.trace ++ es ∧ WholeTransfers (MaySend i s) es := by
  have hnone (ht : t.trace = s.trace) : ∃ es, t.trace = s.trace ++ es ∧ WholeTransfers (MaySend i s) es :=
    ⟨[], by simpa using ht, .nil⟩
  cases i with
  | frameWrite12 ch buf gain data =>
    obtain ⟨cfg, hr, hn, hc, rfl, rfl, rfl⟩ := writeFrameTransfer_next h
    rw [frameWord12_eq_writeFrame hn]
    exact ⟨_, emitAll_trace _ s, .frame (maySend_write hr hc _)⟩
  | frameWrite10 ch buf gain data =>
    obtain ⟨cfg, hr, hn, hc, rfl, rfl, rfl⟩ := writeFrameTransfer_next h
    rw [frameWord10_eq_writeFrame hn]
    exact ⟨_, emitAll_trace _ s, .frame (maySend_write hr hc _)⟩
  | frameWrite8 ch buf gain data =>
    obtain ⟨cfg, hr, hn, hc, rfl, rfl, rfl⟩ := writeFrameTransfer_next h
    rw [frameWord8_eq_writeFrame hn]
    exact ⟨_, emitAll_trace _ s, .frame (maySend_write hr hc _)⟩
  | frameShutdown buf gain =>
    obtain ⟨cfg, hr, -, -, rfl⟩ := exec_frameShutdown_next h
    exact ⟨_, emitAll_trace _ s, .frame ⟨cfg, hr, .inr ⟨.inr ⟨_, _, rfl⟩, rfl⟩⟩⟩
  | configure o interval => exact hnone (exec_configure_trace h)
  | write c v =>
    obtain ⟨cfg, hs, hc, rfl⟩ := exec_write_next h
    exact ⟨_, emitAll_trace _ s, .frame (maySend_write hs.1 hc v)⟩
  | writeBoth a b =>
    obtain ⟨cfg, hs, hd, rfl⟩ := exec_writeBoth_next h
    refine ⟨_, emitAll_trace _ s, ((WholeTransfers.frame (maySend_write hs.1 (.inl rfl) a)).append
      (.frame (maySend_write hs.1 (.inr hd) b))).append ?_⟩
    split
    · exact .latch cfg
    · exact .nil
  | latch =>
    obtain ⟨cfg, hs, rfl⟩ := exec_latch_next h
    exact ⟨_, emitAll_trace _ s, .latch cfg⟩
  | shutdown =>
    obtain ⟨cfg, hs, rfl⟩ := exec_shutdown_next h
    exact ⟨_, emitAll_trace _ s, .frame ⟨cfg, hs.1, .inr ⟨.inl rfl, rfl⟩⟩⟩
  | pollFull =>
    obtain ⟨cfg, -, -, ⟨-, rfl⟩ | ⟨-, rfl⟩⟩ := exec_pollFull_next h
    · exact hnone rfl
    · exact hnone rfl
  | pollSingle =>
    obtain ⟨cfg, hs, -, ⟨-, hc, rfl⟩ | ⟨-, rfl⟩⟩ := exec_pollSingle_next h
    · exact ⟨_, polled_trace cfg s, .output (maySend_output hs.1 hc _)⟩
    · exact hnone rfl
  | trigRise =>
    obtain ⟨-, rfl⟩ := exec_trigRise_next h
    exact hnone rfl
  | trigFall =>
    obtain ⟨-, rfl⟩ := exec_trigFall_next h
    exact hnone rfl
  | reset =>
    cases h
    exact hnone rfl
  | step =>
    obtain ⟨cfg, v, hs, -, rfl⟩ := exec_step_next h
    exact ⟨_, stepped_trace cfg v s, .output (maySend_output hs.1 hs.2.2.2 _)⟩

/-- In the words of the obligations. -/
theorem exec_transfers_of {i : Instr} {s t : State} {P : Frame → Prop} (h : exec i s = .next t)
    (hP : ∀ f, MaySend i s f → P f) :
    ∃ ts : List Transfer, t.trace = s.trace ++ ts.flatMap Transfer.events ∧ ∀ f, Transfer.frame f ∈ ts → P f := by
  obtain ⟨es, htrace, hes⟩ := exec_transfers h
  obtain ⟨ts, rfl, hts⟩ := hes.mono hP
  exact ⟨ts, htrace, hts⟩

theorem writeFrame_channel_dual {cfg : DacConfiguration} {c : Channel} (hc : c = .A ∨ cfg.dualChannel = true) (v : Nat)
    (h : (writeFrame cfg c v).getLsbD 15 = true) : cfg.dualChannel = true := by
  rw [writeFrame_channel] at h
  rcases hc with rfl | hd
  · cases h
  · exact hd

theorem writeFrame_pad (cfg : DacConfiguration) (c : Channel) (v : Nat) {i : Nat}
    (h : i < 12 - resolutionWidth cfg.resolutionBits) : (writeFrame cfg c v).getLsbD i = false := by
  rw [writeFrame_getLsbD, if_pos (by omega), dataField_getLsbD]
  simp [show ¬12 - resolutionWidth cfg.resolutionBits ≤ i by omega]

/-- Settles O31 (rules R52, R91): the frames an instruction may send are legal ones of the Ready block's configuration. -/
theorem onlyLegalWholeTransfers : Obligations.OnlyLegalWholeTransfers := by
  intro i s t h
  refine exec_transfers_of h ?_
  rintro f ⟨cfg, hr, ⟨c, v, hc, rfl⟩ | ⟨-, rfl⟩⟩
  · exact ⟨cfg, hr, .inr ⟨writeFrame_active cfg c v, writeFrame_buffer cfg c v, writeFrame_gain cfg c v,
      writeFrame_channel_dual hc v, fun j hj => writeFrame_pad cfg c v hj⟩⟩
  · exact ⟨cfg, hr, .inl rfl⟩

/-- Settles O32 (rules R25, R81): no frame an instruction may send on a single-channel device names channel B. -/
theorem singleChannelFramesNameChannelA : Obligations.SingleChannelFramesNameChannelA := by
  intro i s t cfg hr hd h
  refine exec_transfers_of h ?_
  rintro f ⟨cfg', hr', hf⟩
  obtain rfl := readyWith_unique hr hr'
  obtain ⟨c, v, hc, rfl⟩ | ⟨-, rfl⟩ := hf
  · refine Bool.eq_false_of_not_eq_true fun hB => ?_
    rw [writeFrame_channel_dual hc v hB] at hd
    cases hd
  · rw [shutdownFrame_channel, hd, Bool.false_and]

/-! ### The status outputs -/

theorem statusOf_emitAll (es : List Event) (s : State) : statusOf (emitAll es s) = statusOf s := by
  simp [statusOf]

/-- Settles O60 (rules R41, R184): output events touch no field the outputs show, and RESET gives each its first code. -/
theorem statusOutputsFollowTheOperations : Obligations.StatusOutputsFollowTheOperations := by
  refine ⟨fun i s t hi h => ?operations, fun s => ⟨_, rfl, rfl⟩⟩
  rcases hi with ⟨c, v, rfl⟩ | ⟨a, b, rfl⟩ | rfl | rfl
  · obtain ⟨cfg, -, -, rfl⟩ := exec_write_next h
    exact statusOf_emitAll _ s
  · obtain ⟨cfg, -, -, rfl⟩ := exec_writeBoth_next h
    exact statusOf_emitAll _ s
  · obtain ⟨cfg, -, rfl⟩ := exec_latch_next h
    exact statusOf_emitAll _ s
  · obtain ⟨cfg, -, rfl⟩ := exec_shutdown_next h
    exact statusOf_emitAll _ s

/-- Settles O59 (rule R41): each code is given to one value; the last clause is I-a of rule R40. -/
theorem statusOutputsShowTheCodes : Obligations.StatusOutputsShowTheCodes := by
  intro s
  have hlife : ((statusOf s).lifecycle = 0 ↔ s.lifecycle = .unconfigured) ∧
      ((statusOf s).lifecycle = 1 ↔ s.lifecycle = .ready) ∧ ((statusOf s).lifecycle = 2 ↔ s.lifecycle = .halted) := by
    cases hl : s.lifecycle <;> simp [statusOf, lifecycleCode, hl]
  have hfault : ((statusOf s).fault = 0 ↔ s.fault = .noFault) ∧ ((statusOf s).fault = 1 ↔ s.fault = .invalidModel) := by
    cases hf : s.fault <;> simp [statusOf, faultCode, hf]
  have hphase : ((statusOf s).phase = 0 ↔ s.phase = .idle) ∧ ((statusOf s).phase = 1 ↔ s.phase = .sweeping) := by
    cases hp : s.phase <;> simp [statusOf, phaseCode, hp]
  have hdir : ((statusOf s).direction = 0 ↔ s.direction = .ascending) ∧
      ((statusOf s).direction = 1 ↔ s.direction = .descending) := by
    cases hd : s.direction <;> simp [statusOf, directionCode, hd]
  exact ⟨hlife.1, hlife.2.1, hlife.2.2, hfault.1, hfault.2, hphase.1, hphase.2, hdir.1, hdir.2, rfl, rfl,
    fun hinv => hfault.2.trans (hinv.fault.trans hlife.2.2.symm)⟩

end Sys2Proof.Machine

/-! PROOFS. What the DAC makes of the commands (rules R66 to R68): a frame loads one channel, a pulse commits both. -/

namespace Sys2Proof.Machine

open Sys2Proof Sys2Proof.Safety

/-! ### The observer over a transfer -/

@[simp] theorem emitAll_dac (es : List Event) (s : State) : (emitAll es s).dac = s.dac.sees s.latchLine es := by
  simp [emitAll_eq]

theorem latchLine_of_ready {s : State} {cfg : DacConfiguration} (hr : ReadyWith s cfg) :
    s.latchLine = cfg.latchLinePresent := by
  simp [State.latchLine, hr.2]

/-- The channel a frame addresses (rule R81). -/
def frameChannel (f : Frame) : Channel := Channel.ofBit (f.getLsbD 15)

@[simp] theorem frameChannel_writeFrame (cfg : DacConfiguration) (c : Channel) (v : Nat) :
    frameChannel (writeFrame cfg c v) = c := by
  rw [frameChannel, writeFrame_channel, Channel_ofBit_bit]

/-- A frame loads the input register of its channel and no other (rule R67). -/
theorem sees_busSend_input (l : Bool) (d : Dac) (f : Frame) (c : Channel) :
    (d.sees l (busSendEvents f)).input c = if c = frameChannel f then some (dacRegOfFrame f) else d.input c := by
  rw [sees_busSend]
  unfold Dac.receive frameChannel
  cases Channel.ofBit (f.getLsbD 15) <;> cases c <;> rfl

/-- It loads the output register with it where there is no latch line (rule R67). -/
theorem sees_busSend_output (l : Bool) (d : Dac) (f : Frame) (c : Channel) :
    (d.sees l (busSendEvents f)).output c =
      if c = frameChannel f then if l then d.output c else some (dacRegOfFrame f) else d.output c := by
  rw [sees_busSend]
  unfold Dac.receive frameChannel
  cases Channel.ofBit (f.getLsbD 15) <;> cases c <;> rfl

/-- A pulse commits both channels and leaves the inputs (rule R68). -/
theorem sees_pulse_output (l : Bool) (d : Dac) (c : Channel) :
    (d.sees l [.latchLow, .latchHigh]).output c = d.input c := by
  cases c <;> rfl

theorem sees_pulse_input (l : Bool) (d : Dac) (c : Channel) :
    (d.sees l [.latchLow, .latchHigh]).input c = d.input c := by
  cases c <;> rfl

/-- The record a frame of WRITE loads (rules R67, R88). -/
theorem dacRegOfFrame_writeFrame (cfg : DacConfiguration) (c : Channel) (v : Nat) :
    dacRegOfFrame (writeFrame cfg c v) =
      { active := true
        buf := cfg.bufferInput
        gain1x := decide (cfg.gainMode = .gain1x)
        data12 := BitVec.ofNat 12
          ((v % 2 ^ resolutionWidth cfg.resolutionBits) * 2 ^ (12 - resolutionWidth cfg.resolutionBits)) } := by
  rw [dacRegOfFrame, writeFrame_active, writeFrame_buffer, writeFrame_gain, GainMode_ga_eq_decide,
    ← (dataIsMaskedThenShifted cfg c v).1, BitVec.ofNat_toNat, BitVec.setWidth_eq]

/-! ### The commands at the observer -/

/-- Settles O36 (rules R67, R88). -/
theorem writeReachesTheDac : Obligations.WriteReachesTheDac := by
  intro s t cfg c v hs h
  obtain ⟨cfg', hs', -, rfl⟩ := exec_write_next h
  obtain rfl := readyWith_unique hs.1 hs'.1
  simp only [emitAll_dac, sees_busSend_input, sees_busSend_output, frameChannel_writeFrame, if_true,
    latchLine_of_ready hs.1]
  refine ⟨congrArg some (dacRegOfFrame_writeFrame _ c v), trivial, fun c' hc' => ?other⟩
  case other => simp only [hc', if_false, and_self]

/-- Settles O37 (rule R68). -/
theorem pulseCommitsBothChannels : Obligations.PulseCommitsBothChannels := by
  intro s t cfg hs hlatch h c
  obtain ⟨cfg', hs', rfl⟩ := exec_latch_next h
  obtain rfl := readyWith_unique hs.1 hs'.1
  rw [latchEvents, if_pos hlatch, emitAll_dac]
  exact ⟨sees_pulse_output _ _ c, sees_pulse_input _ _ c⟩

/-- Settles O38 (rules R67, R68, R113): two frames, each loading its channel, and a pulse that commits both where one is
sent. -/
theorem writeBothCommitsTogether : Obligations.WriteBothCommitsTogether := by
  intro s t cfg a b hs h
  obtain ⟨cfg', hs', -, rfl⟩ := exec_writeBoth_next h
  obtain rfl := readyWith_unique hs.1 hs'.1
  rw [autoLatch_events]
  simp only [emitAll_dac, sees_append, latchLine_of_ready hs.1]
  split
  · next hpulse =>
    simp only [sees_pulse_input, sees_pulse_output, sees_busSend_input, frameChannel_writeFrame, if_true, reduceCtorEq,
      if_false, hpulse.1, hpulse.2]
    simp
  · next hpulse =>
    simp only [sees_nil, sees_busSend_input, sees_busSend_output, frameChannel_writeFrame, if_true, reduceCtorEq,
      if_false]
    refine ⟨trivial, trivial, fun hl ha => absurd ⟨ha, hl⟩ hpulse, fun hl _ => ?_, fun hl => ?_⟩
    · simp only [hl, if_true, and_self]
    · simp only [hl, Bool.false_eq_true, if_false, and_self]

/-- Settles O8 (rule R84): bit 12 tells the two kinds of frame apart, only SHUTDOWN and its row send the other kind, and the
frame of a later WRITE loads an active register. -/
theorem writeAfterShutdownWakes : Obligations.WriteAfterShutdownWakes := by
  refine ⟨fun b cfg c v => ⟨writeFrame_active cfg c v, shutdownFrame_active b cfg⟩, fun i s t hi hrow h => ?others,
    fun s cfg c v hs hc => ?wake⟩
  case others =>
    refine exec_transfers_of h ?_
    rintro f ⟨cfg, -, ⟨c, v, -, rfl⟩ | ⟨hshut | ⟨buf, gain, hshut⟩, -⟩⟩
    · exact writeFrame_active cfg c v
    · exact absurd hshut hi
    · exact absurd hshut (hrow buf gain)
  case wake =>
    refine ⟨_, _, exec_shutdown hs, exec_write (serving_emitAll hs _) hc v, ?trace, ?dac⟩
    case trace => simp only [emitAll_trace]
    case dac =>
      rw [emitAll_dac, sees_busSend_input, frameChannel_writeFrame, if_pos rfl]
      exact congrArg some (writeFrame_active cfg c v)

end Sys2Proof.Machine

/-! PROOFS. Everything one step of the machine can do, said once (rules R9, R58, R93, R97, R146): `Moves s t` lists the
environment's moves and `Turns s t` the sequencer's turns, whole or a sub-step at a time. -/

namespace Sys2Proof.Machine

open Sys2Proof Sys2Proof.Safety

/-! ### Where a step takes its instruction from -/

/-- The sequencer has its turn: the environment gives it, or has no move, and `rest` is what it does after. -/
abbrev TurnNext (s : State) (rest : List Move) : Prop := s.script = .turn :: rest ∨ s.script = [] ∧ rest = []

section
variable {s : State} {rest : List Move}

theorem step_turn (h : TurnNext s rest) : step s = wholeTurn { s with script := rest } := by
  rcases h with h | ⟨h, rfl⟩
  · simp only [step, takeMove, h]
  · have hs : { s with script := [] } = s := by rw [← h]
    rw [hs]
    simp only [step, takeMove, h]

theorem wholeTurn_idle (hw : s.work = []) : wholeTurn s = nextOperation exec s := by simp only [wholeTurn, hw]

theorem fineTurn_idle (hw : s.work = []) : fineTurn s = nextOperation start s := by simp only [fineTurn, hw]

theorem nextOperation_sweeping (run : Instr → State → Result) (hp : s.phase = .sweeping) :
    nextOperation run s = run .step s := by
  simp only [nextOperation, hp]
  rfl

theorem nextOperation_served (run : Instr → State → Result) (hp : s.phase = .idle) {c : Command} (hport : s.port = some c) :
    nextOperation run s = runDecoded run (decode s.build s.mode (.command c)) { s with port := none } := by
  simp only [nextOperation, hp, hport]

theorem nextOperation_none (run : Instr → State → Result) (hp : s.phase = .idle) (hport : s.port = none) :
    nextOperation run s = .next s := by
  simp only [nextOperation, hp, hport]

theorem wholeTurn_send {f : Frame} {ws : List SubStep} (hw : s.work = .send f :: ws) :
    wholeTurn s = runDecoded exec (decode s.deviceBuild s.mode (.frame f)) { s with work := ws } := by
  simp only [wholeTurn, hw]

theorem step_trigPin {high : Bool} (h : s.script = .trigPin high :: rest) :
    step s = runDecoded exec (decode s.build s.mode (.trig (trigTransition s.build.triggerPolarity s.trigActive high)))
      { s with script := rest } := by
  simp only [step, takeMove, h]

theorem step_rst (h : s.script = .rst :: rest) : step s = .next (resetState { s with script := rest }) := by
  simp only [step, takeMove, h]
  rfl

/-- The command on the port, served. -/
theorem step_served (hturn : TurnNext s rest) (hw : s.work = []) (hp : s.phase = .idle) {c : Command}
    (hport : s.port = some c) {i : Instr} (hdec : decode s.build s.mode (.command c) = .ok i) :
    step s = exec i { s with script := rest, port := none } := by
  rw [step_turn hturn, wholeTurn_idle (s := { s with script := rest }) hw,
    nextOperation_served (s := { s with script := rest }) exec hp hport]
  exact congrArg (runDecoded exec · { s with script := rest, port := none }) hdec

/-- The next frame of the operation in progress, sent. -/
theorem step_frame (hturn : TurnNext s rest) {f : Frame} {ws : List SubStep} (hw : s.work = .send f :: ws) {i : Instr}
    (hdec : decode s.deviceBuild s.mode (.frame f) = .ok i) : step s = exec i { s with script := rest, work := ws } := by
  rw [step_turn hturn, wholeTurn_send (s := { s with script := rest }) hw]
  exact congrArg (runDecoded exec · { s with script := rest, work := ws }) hdec

/-- The next step of the sweep. -/
theorem step_sweeping (hturn : TurnNext s rest) (hw : s.work = []) (hp : s.phase = .sweeping) :
    step s = exec .step { s with script := rest } := by
  rw [step_turn hturn, wholeTurn_idle (s := { s with script := rest }) hw,
    nextOperation_sweeping (s := { s with script := rest }) exec hp]

end

/-- Settles O54 (rules R9, R93, R97, R146): each place an instruction is taken from has its own equation. -/
theorem stepRunsTheDecodedInstruction : Obligations.StepRunsTheDecodedInstruction := by
  refine ⟨fun s rest c i hturn hw hp hport hdec => step_served hturn hw hp hport hdec,
    fun s rest f ws i hturn hw hdec => step_frame hturn hw hdec,
    fun s rest hturn hw hp => step_sweeping hturn hw hp, fun s rest high i hscript hdec => ?edge,
    fun s rest hscript => step_rst hscript⟩
  case edge =>
    rw [step_trigPin hscript, hdec]
    rfl

/-! ### What the decoder can answer at each place -/

theorem decodeCommand_sequenced {b : Build} {p : SweepPolicy} {c : Command} {i : Instr}
    (h : decodeCommand b p c = .ok i) : sequenced i = true := by
  unfold decodeCommand at h
  split at h
  · split at h <;> cases h
    rfl
  split at h
  · split at h <;> cases h
    rfl
  split at h
  · split at h <;> cases h
    rfl
  split at h
  · cases h; rfl
  split at h
  · cases h; rfl
  split at h
  · split at h <;> cases h
    · rfl
    · rfl
  · cases h

theorem decodeTrig_edge {t : BitVec 2} {i : Instr} (h : decodeTrig t = .ok i) : i = .trigRise ∨ i = .trigFall := by
  unfold decodeTrig at h
  split at h
  · cases h; exact .inl rfl
  · split at h <;> cases h
    exact .inr rfl

/-- Running what was decoded answers next only when something was. -/
theorem runDecoded_next {run : Instr → State → Result} {d : Decoded} {s t : State} (h : runDecoded run d s = .next t) :
    ∃ i, d = .ok i ∧ run i s = .next t := by
  cases d with
  | ok i => exact ⟨i, rfl, h⟩
  | rejected e => cases h

/-- A frame row read from a frame transfers that frame. -/
theorem exec_frame_next {s t : State} {f : Frame} {i : Instr} (hi : encode s.deviceBuild i = .frame f)
    (h : exec i s = .next t) : t = runSub (.send f) s := by
  cases i with
  | frameWrite12 | frameWrite10 | frameWrite8 =>
    cases hi
    obtain ⟨-, -, -, -, -, -, ht⟩ := writeFrameTransfer_next h
    exact ht
  | frameShutdown buf gain =>
    cases hi
    obtain ⟨cfg, hr, rfl, rfl, rfl⟩ := exec_frameShutdown_next h
    rw [deviceBuild_of_ready hr, ← shutdownFrame_eq]
    rfl
  | configure | write | writeBoth | latch | shutdown | pollFull | pollSingle | trigRise | trigFall | reset | step =>
    cases hi

/-! ### What a turn can do -/

/-- What the sequencer can do in a turn: the next sub-step, the first event of a frame, nothing, or an operation begun or run
whole, from the sweep or from the command port. -/
inductive Turns (s : State) : State → Prop
  | sub {w : SubStep} {ws : List SubStep} (hwork : s.work = w :: ws) : Turns s (runSub w { s with work := ws })
  | frameBegun {f : Frame} {ws : List SubStep} (hwork : s.work = .send f :: ws) :
      Turns s (emit .csLow { s with work := (busSendTail f).map .emit ++ ws })
  | waiting (hp : s.phase = .idle) (hport : s.port = none) : Turns s s
  | operation {i : Instr} {port : Option Command} {u t : State} (hport : port = s.port ∨ s.phase = .idle)
      (hu : Starts { s with port := port } i u) (ht : t = u ∨ t = u.settle) : Turns s t

/-- An operation begun, or run whole, is `Turns.operation`. -/
theorem turns_of_nextOperation {run : Instr → State → Result}
    (hrun : ∀ i s t, sequenced i = true → run i s = .next t → ∃ u, Starts s i u ∧ (t = u ∨ t = u.settle))
    {s t : State} (h : nextOperation run s = .next t) : Turns s t := by
  cases hp : s.phase with
  | sweeping =>
    rw [nextOperation_sweeping run hp] at h
    obtain ⟨u, hu, ht⟩ := hrun _ _ _ rfl h
    exact .operation (.inl rfl) hu ht
  | idle =>
    cases hport : s.port with
    | none =>
      rw [nextOperation_none run hp hport] at h
      cases h
      exact .waiting hp hport
    | some c =>
      rw [nextOperation_served run hp hport] at h
      obtain ⟨i, hdec, h⟩ := runDecoded_next h
      obtain ⟨u, hu, ht⟩ := hrun _ _ _ (decodeCommand_sequenced hdec) h
      exact .operation (.inr hp) hu ht

theorem turns_of_wholeTurn {s t : State} (h : wholeTurn s = .next t) : Turns s t := by
  cases hw : s.work with
  | nil =>
    rw [wholeTurn_idle hw] at h
    refine turns_of_nextOperation (fun i s t hi hrun => ?_) h
    obtain ⟨u, hu, ht⟩ := exec_sequenced_next hi hrun
    exact ⟨u, hu, .inr ht⟩
  | cons w ws =>
    cases w with
    | send f =>
      rw [wholeTurn_send hw] at h
      obtain ⟨i, hdec, h⟩ := runDecoded_next h
      have ht := exec_frame_next (s := { s with work := ws }) (encodeOfDecodedFrameIsIdentity _ _ _ _ hdec) h
      exact ht ▸ .sub hw
    | emit | setValue | setDirection | setPhase | setStepIndex =>
      simp only [wholeTurn, hw] at h
      cases h
      exact .sub hw

theorem turns_of_fineTurn {s t : State} (h : fineTurn s = .next t) : Turns s t := by
  cases hw : s.work with
  | nil =>
    rw [fineTurn_idle hw] at h
    exact turns_of_nextOperation (fun i s t hi hrun => ⟨t, starts_of_start hi hrun, .inl rfl⟩) h
  | cons w ws =>
    cases w with
    | send f =>
      simp only [fineTurn, hw] at h
      cases h
      exact .frameBegun hw
    | emit | setValue | setDirection | setPhase | setStepIndex =>
      simp only [fineTurn, hw] at h
      cases h
      exact .sub hw

/-! ### What a step can do -/

/-- What one step can do: a move of the environment, or a turn of the sequencer. -/
inductive Moves (s : State) : State → Prop
  | presented {c : Command} {rest : List Move} (hscript : s.script = .present c :: rest) (hport : s.port = none) :
      Moves s { s with port := some c, script := rest }
  | rise {rest : List Move} (hoff : s.trigActive = false) :
      Moves s (takeTrigger true (armedAfterRise s.lifecycle s.armed) { s with script := rest })
  | fall {rest : List Move} (hon : s.trigActive = true) :
      Moves s (takeTrigger false (armedAfterFall s.lifecycle s.cfg s.armed) { s with script := rest })
  | reset {rest : List Move} (hscript : s.script = .rst :: rest) : Moves s (resetState { s with script := rest })
  | turn {rest : List Move} {t : State} (ht : Turns { s with script := rest } t) : Moves s t

/-- Every step is one of the moves listed. -/
theorem moves_of_step {s t : State} (h : step s = .next t) : Moves s t := by
  cases hscript : s.script with
  | nil =>
    rw [step_turn (.inr ⟨hscript, rfl⟩)] at h
    exact .turn (turns_of_wholeTurn h)
  | cons m rest =>
    cases m with
    | present c =>
      cases hport : s.port with
      | none =>
        simp only [step, takeMove, hscript, hport] at h
        cases h
        exact .presented hscript hport
      | some d =>
        simp only [step, takeMove, hscript, hport] at h
        exact .turn (rest := s.script) (turns_of_wholeTurn h)
    | trigPin high =>
      rw [step_trigPin hscript] at h
      obtain ⟨i, hdec, h⟩ := runDecoded_next h
      rcases decodeTrig_edge hdec with rfl | rfl
      · obtain ⟨hoff, rfl⟩ := exec_trigRise_next h
        exact .rise hoff
      · obtain ⟨hon, rfl⟩ := exec_trigFall_next h
        exact .fall hon
    | rst =>
      rw [step_rst hscript] at h
      cases h
      exact .reset hscript
    | turn =>
      rw [step_turn (.inl hscript)] at h
      exact .turn (turns_of_wholeTurn h)
    | fine =>
      simp only [step, takeMove, hscript] at h
      exact .turn (turns_of_fineTurn h)

end Sys2Proof.Machine

/-! PROOFS. What every step keeps (rules R6, R23, R34, R35, R40, R66, R146): the build, the configuration, the trace, the pins,
the observer and the command port. -/

namespace Sys2Proof.Machine

open Sys2Proof Sys2Proof.Safety

/-! ### What beginning an operation keeps -/

section
variable {i : Instr} {s u : State}

theorem Starts.build (h : Starts s i u) : u.build = s.build := by cases h <;> rfl

theorem Starts.port (h : Starts s i u) : u.port = s.port := by cases h <;> rfl

theorem Starts.trace (h : Starts s i u) : u.trace = s.trace := by cases h <;> rfl

/-- CONFIGURE apart, which a Ready block refuses, nothing begun writes the record. -/
theorem Starts.cfg_of_ready (h : Starts s i u) (hl : s.lifecycle = .ready) : u.cfg = s.cfg := by
  cases h with
  | configure _ hl' => rw [hl] at hl'; cases hl'
  | invalidModel | write | writeBoth | latch | shutdown | pollFull | pollFullUnarmed | pollSingle | pollSingleUnarmed
  | step => rfl

/-- Either the operation is one atomic block, or its beginning writes nothing but what is left to do. -/
theorem Starts.atomic_or_working (h : Starts s i u) : u.work = [] ∨ ∃ ws, u = { s with work := ws } := by
  cases h with
  | configure _ _ _ hw | invalidModel _ _ _ hw => exact .inl hw
  | pollFull hs | pollFullUnarmed hs | pollSingleUnarmed hs => exact .inl hs.2.2
  | write | writeBoth | latch | shutdown | pollSingle | step => exact .inr ⟨_, rfl⟩

/-- Outside Ready only CONFIGURE begins, and it sends nothing. -/
theorem Starts.atomic_of_not_ready (h : Starts s i u) (hl : s.lifecycle ≠ .ready) : u.work = [] := by
  cases h with
  | configure _ _ _ hw | invalidModel _ _ _ hw => exact hw
  | write _ hs | writeBoth _ _ hs | latch hs | shutdown hs | pollFull hs | pollFullUnarmed hs | pollSingle hs
  | pollSingleUnarmed hs | step hs => exact absurd hs.1.1 hl

end

/-! ### The build and the configuration -/

theorem Turns.build {s t : State} (h : Turns s t) : t.build = s.build := by
  cases h with
  | sub hwork => simp
  | frameBegun hwork | waiting => rfl
  | operation hport hu ht => rcases ht with rfl | rfl <;> simp [hu.build]

theorem Turns.cfg_of_ready {s t : State} (h : Turns s t) (hl : s.lifecycle = .ready) : t.cfg = s.cfg := by
  cases h with
  | sub hwork => simp
  | frameBegun hwork | waiting => rfl
  | operation hport hu ht => rcases ht with rfl | rfl <;> simp [hu.cfg_of_ready hl]

/-- Settles O17 (rules R6, R23): of all a step can do, only CONFIGURE and RESET write the record. -/
theorem configurationIsImmutable : Obligations.ConfigurationIsImmutable := by
  intro s t h
  cases moves_of_step h with
  | presented | rise | fall => exact ⟨rfl, fun cfg hr => .inl hr.2⟩
  | reset hscript => exact ⟨rfl, fun cfg hr => .inr ⟨rfl, by rw [hscript]; rfl⟩⟩
  | turn ht => exact ⟨ht.build, fun cfg hr => .inl ((ht.cfg_of_ready hr.1).trans hr.2)⟩

/-! ### The wire -/

/-- From `s` to `t` exactly the events `es` go out: the trace, the two pins and the observer take them. -/
structure Emits (es : List Event) (s t : State) : Prop where
  trace : t.trace = s.trace ++ es
  csN : t.csN = es.foldl csAfter s.csN
  ldacN : t.ldacN = es.foldl ldacAfter s.ldacN
  dac : t.dac = s.dac.sees s.latchLine es

/-- Nothing goes out where none of the four is written. -/
theorem Emits.nil {s t : State} (htrace : t.trace = s.trace) (hcs : t.csN = s.csN) (hldac : t.ldacN = s.ldacN)
    (hdac : t.dac = s.dac) : Emits [] s t :=
  ⟨by rw [htrace, List.append_nil], hcs, hldac, hdac⟩

theorem Emits.trans {es fs : List Event} {s t u : State} (h : Emits es s t) (hcfg : t.cfg = s.cfg) (h' : Emits fs t u) :
    Emits (es ++ fs) s u where
  trace := by rw [h'.trace, h.trace, List.append_assoc]
  csN := by rw [h'.csN, h.csN, List.foldl_append]
  ldacN := by rw [h'.ldacN, h.ldacN, List.foldl_append]
  dac := by rw [h'.dac, h.dac, sees_append, State.latchLine, State.latchLine, hcfg]

theorem emits_emitAll (es : List Event) (s : State) : Emits es s (emitAll es s) := by
  rw [emitAll_eq]
  exact ⟨rfl, rfl, rfl, rfl⟩

theorem emits_runSub (w : SubStep) (s : State) : ∃ es, Emits es s (runSub w s) := by
  cases w with
  | emit e => exact ⟨[e], rfl, rfl, rfl, rfl⟩
  | send f => exact ⟨_, emits_emitAll _ s⟩
  | setValue | setDirection | setPhase | setStepIndex => exact ⟨[], .nil rfl rfl rfl rfl⟩

theorem emits_runSubs (ws : List SubStep) (s : State) : ∃ es, Emits es s (runSubs ws s) := by
  induction ws generalizing s with
  | nil => exact ⟨[], .nil rfl rfl rfl rfl⟩
  | cons w ws ih =>
    obtain ⟨es, hes⟩ := emits_runSub w s
    obtain ⟨fs, hfs⟩ := ih (runSub w s)
    exact ⟨es ++ fs, hes.trans (runSub_cfg w s) hfs⟩

/-- An operation sends nothing by beginning, and some list of events by running whole. -/
theorem Starts.emits {i : Instr} {s u t : State} (h : Starts s i u) (ht : t = u ∨ t = u.settle) : ∃ es, Emits es s t := by
  have hu : Emits [] s u := by cases h <;> exact .nil rfl rfl rfl rfl
  rcases ht with rfl | rfl
  · exact ⟨[], hu⟩
  · rcases h.atomic_or_working with hw | ⟨ws, rfl⟩
    · rw [settle_of_idle hw]
      exact ⟨[], hu⟩
    · rw [settle_withWork h.work_nil]
      exact emits_runSubs ws s

theorem Turns.emits {s t : State} (h : Turns s t) : ∃ es, Emits es s t := by
  cases h with
  | @sub w ws hwork =>
    obtain ⟨es, hes⟩ := emits_runSub w { s with work := ws }
    exact ⟨es, hes.trace, hes.csN, hes.ldacN, hes.dac⟩
  | frameBegun hwork => exact ⟨[.csLow], rfl, rfl, rfl, rfl⟩
  | waiting => exact ⟨[], .nil rfl rfl rfl rfl⟩
  | operation hport hu ht =>
    obtain ⟨es, hes⟩ := hu.emits ht
    exact ⟨es, hes.trace, hes.csN, hes.ldacN, hes.dac⟩

/-- Every step is a RESET or sends some list of events, which the pins and the observer follow. -/
theorem Moves.emits {s t : State} (h : Moves s t) :
    (∃ rest, s.script = .rst :: rest ∧ t = resetState { s with script := rest }) ∨ ∃ es, Emits es s t := by
  cases h with
  | presented | rise | fall => exact .inr ⟨[], .nil rfl rfl rfl rfl⟩
  | reset hscript => exact .inl ⟨_, hscript, rfl⟩
  | turn ht =>
    obtain ⟨es, hes⟩ := ht.emits
    exact .inr ⟨es, hes.trace, hes.csN, hes.ldacN, hes.dac⟩

/-- Settles O34 (rule R35). -/
theorem traceOnlyGrows : Obligations.TraceOnlyGrows := by
  intro s t h
  rcases (moves_of_step h).emits with ⟨rest, -, rfl⟩ | ⟨es, hes⟩
  · exact ⟨[], (List.append_nil _).symm⟩
  · exact ⟨es, hes.trace⟩

/-- Settles O35 (rule R34, decision D25): the pins follow the same events that the trace takes. -/
theorem pinsFollowTheTrace : Obligations.PinsFollowTheTrace := by
  rintro s t ⟨hcs, hldac⟩ hrst h
  rcases (moves_of_step h).emits with ⟨rest, hscript, -⟩ | ⟨es, hes⟩
  · rw [hscript] at hrst
    exact absurd rfl hrst
  · exact ⟨by rw [hes.csN, hes.trace, List.foldl_append, ← hcs],
      by rw [hes.ldacN, hes.trace, List.foldl_append, ← hldac]⟩

/-- Settles O39 (rule R66): the observer takes the same events that the trace takes; RESET would drop the record. -/
theorem observerIsAFunctionOfTheTrace : Obligations.ObserverIsAFunctionOfTheTrace := by
  intro s t cfg hs ht hdac h
  rcases (moves_of_step h).emits with ⟨rest, -, rfl⟩ | ⟨es, hes⟩
  · cases ht
  · have hline : s.latchLine = cfg.latchLinePresent := by simp [State.latchLine, hs]
    rw [hes.dac, hes.trace, hline, Dac.ofTrace, sees_append, hdac, Dac.ofTrace]

/-- Outside Ready, with no operation in progress, a turn sends nothing. -/
theorem Turns.trace_of_not_ready {s t : State} (h : Turns s t) (hl : s.lifecycle ≠ .ready) (hw : s.work = []) :
    t.trace = s.trace := by
  cases h with
  | sub hwork | frameBegun hwork => rw [hw] at hwork; cases hwork
  | waiting => rfl
  | operation hport hu ht =>
    rw [settle_of_idle (hu.atomic_of_not_ready hl)] at ht
    obtain rfl := ht.elim id id
    exact hu.trace

/-- Settles O33 (rules R40 I-f, R91(e)). -/
theorem nothingSentUnlessReady : Obligations.NothingSentUnlessReady := by
  intro s t hinv hl h
  cases moves_of_step h with
  | presented | rise | fall | reset => rfl
  | turn ht => exact ht.trace_of_not_ready hl (hinv.workReady hl)

/-! ### The command port -/

/-- A busy sequencer leaves the port alone (rule R146). -/
theorem Turns.port_of_busy {s t : State} (h : Turns s t) (hbusy : s.work ≠ [] ∨ s.phase = .sweeping) :
    t.port = s.port := by
  cases h with
  | sub hwork => simp
  | frameBegun hwork | waiting => rfl
  | @operation i port u _ hport hu ht =>
    have hsame : t.port = port := by rcases ht with rfl | rfl <;> simp [hu.port]
    rcases hport with rfl | hidle
    · exact hsame
    · rcases hbusy with hw | hp
      · exact absurd hu.work_nil hw
      · rw [hidle] at hp
        cases hp

/-- Settles O49 (rules R93, R146): in a sweep the turn is STEP's; the environment fills an empty port, and only an idle
sequencer empties it. -/
theorem commandsWaitForTheSweep : Obligations.CommandsWaitForTheSweep := by
  refine ⟨fun s rest hturn hw hp => step_sweeping hturn hw hp, fun s t c hport hbusy h => ?taken,
    fun s t hport hbusy h => ?empty⟩
  case taken =>
    cases moves_of_step h with
    | presented _ hnone => rw [hport] at hnone; cases hnone
    | rise | fall | reset => exact hport
    | turn ht => exact (ht.port_of_busy hbusy).trans hport
  case empty =>
    cases moves_of_step h with
    | presented hscript => exact .inr ⟨_, _, hscript, rfl⟩
    | rise | fall | reset => exact .inl hport
    | turn ht => exact .inl ((ht.port_of_busy hbusy).trans hport)

end Sys2Proof.Machine

/-! PROOFS. The ramp of a sweep (rules R144, R145, R152): the value each step sends, where the counter stands after it, and
the endpoint the sweep ends at. -/

namespace Sys2Proof.Machine

open Sys2Proof Sys2Proof.Safety

/-! ### The counter moved by one -/

theorem value_succ_toNat {v mx : Value} (h : v.toNat < mx.toNat) : (v + 1).toNat = v.toNat + 1 := by
  have := mx.isLt
  rw [BitVec.toNat_add]
  exact Nat.mod_eq_of_lt (show v.toNat + 1 < _ by omega)

theorem value_pred_toNat {v : Value} (h : 0 < v.toNat) : (v - 1).toNat = v.toNat - 1 :=
  BitVec.toNat_sub_of_le (show (1 : Value).toNat ≤ v.toNat from h)

theorem value_pos {v : Value} (h : v ≠ 0) : 0 < v.toNat :=
  Nat.pos_of_ne_zero fun h0 => h (BitVec.eq_of_toNat_eq h0)

section
variable {cfg : DacConfiguration} {d : Direction}

/-! ### Values of a sweep -/

theorem maxValue_toNat (n : Resolution) : (maxValue n).toNat = 2 ^ resolutionWidth n - 1 := by cases n <;> rfl

theorem sweepLength_eq (cfg : DacConfiguration) : sweepLength cfg = (maxValue cfg.resolutionBits).toNat + 1 := by
  rw [maxValue_toNat, sweepLength]
  have := Nat.one_le_two_pow (n := resolutionWidth cfg.resolutionBits)
  omega

theorem sweepDatum_ascending_toNat {j : Nat} (h : j ≤ (maxValue cfg.resolutionBits).toNat) :
    (sweepDatum cfg .ascending j).toNat = j := by
  have := (maxValue cfg.resolutionBits).isLt
  simp only [sweepDatum, BitVec.toNat_ofNat]
  omega

theorem sweepDatum_descending_toNat {j : Nat} (h : j ≤ (maxValue cfg.resolutionBits).toNat) :
    (sweepDatum cfg .descending j).toNat + j = (maxValue cfg.resolutionBits).toNat := by
  have := (maxValue cfg.resolutionBits).isLt
  simp only [sweepDatum, BitVec.toNat_sub, BitVec.toNat_ofNat]
  omega

theorem sweepDatum_le {j : Nat} (h : j ≤ (maxValue cfg.resolutionBits).toNat) :
    (sweepDatum cfg d j).toNat ≤ (maxValue cfg.resolutionBits).toNat := by
  cases d with
  | ascending => rw [sweepDatum_ascending_toNat h]; exact h
  | descending => have := sweepDatum_descending_toNat h; omega

/-- A sweep begins with the counter of its start endpoint. -/
theorem sweepDatum_zero {v : Value} (h : AtEndpoint cfg v d) : sweepDatum cfg d 0 = v := by
  rcases h with ⟨rfl, rfl⟩ | ⟨rfl, rfl⟩
  · rfl
  · exact BitVec.sub_zero _

/-- A sweep ends at its far endpoint. -/
theorem sweepDatum_last (cfg : DacConfiguration) (d : Direction) :
    sweepDatum cfg d (maxValue cfg.resolutionBits).toNat = farEndpoint cfg d := by
  cases d <;> simp [sweepDatum, farEndpoint]

theorem farEndpoint_atEndpoint (cfg : DacConfiguration) (d : Direction) :
    AtEndpoint cfg (farEndpoint cfg d) d.flip := by
  cases d with
  | ascending => exact .inr ⟨rfl, rfl⟩
  | descending => exact .inl ⟨rfl, rfl⟩

/-! ### On the ramp -/

theorem onRamp_zero {v : Value} (h : AtEndpoint cfg v d) : OnRamp cfg 0 v d :=
  ⟨fun _ => h, fun hne => absurd rfl hne, fun hne => absurd rfl hne⟩

/-- On its ramp a step sends the datum of its number (rules R144, R145). -/
theorem sweepValue_onRamp {index w : Value} (hle : index.toNat ≤ (maxValue cfg.resolutionBits).toNat)
    (h : OnRamp cfg index w d) :
    sweepValue (maxValue cfg.resolutionBits) index d w = .ok (sweepDatum cfg d index.toNat) := by
  obtain ⟨hfirst, hup, hdown⟩ := h
  refine sweepValue_of (fun hi => ?first) (fun hi hd => ?up) (fun hi hd => ?down)
  case first =>
    have hw : sweepDatum cfg d index.toNat = w := by rw [hi]; exact sweepDatum_zero (hfirst hi)
    exact ⟨hw, hw ▸ hfirst hi⟩
  case up =>
    subst hd
    have hw := hup hi rfl
    have hlt : w.toNat < (maxValue cfg.resolutionBits).toNat := by omega
    exact ⟨hlt, BitVec.eq_of_toNat_eq (by rw [sweepDatum_ascending_toNat hle, value_succ_toNat hlt, hw])⟩
  case down =>
    subst hd
    have hw := hdown hi rfl
    have hdatum := sweepDatum_descending_toNat hle
    have hindex := value_pos hi
    have hpos : 0 < w.toNat := by omega
    refine ⟨hpos, by omega, BitVec.eq_of_toNat_eq ?_⟩
    rw [value_pred_toNat hpos]
    omega

/-- A step below the last leaves the counter on the ramp. -/
theorem onRamp_succ {index : Value} (hlt : index.toNat < (maxValue cfg.resolutionBits).toNat) :
    OnRamp cfg (index + 1) (sweepDatum cfg d index.toNat) d := by
  have hnext := value_succ_toNat hlt
  refine ⟨fun h0 => ?_, fun _ hd => ?_, fun _ hd => ?_⟩
  · rw [h0] at hnext
    cases hnext
  · subst hd
    rw [sweepDatum_ascending_toNat hlt.le, hnext]
  · subst hd
    have := sweepDatum_descending_toNat hlt.le
    omega

/-! ### The triangle stays in the range -/

theorem triangleAdvance_le {mx v : Value} (hmx : 0 < mx.toNat) (h : v.toNat ≤ mx.toNat) :
    (triangleAdvance mx (d, v)).2.toNat ≤ mx.toNat := by
  cases d with
  | ascending =>
    simp only [triangleAdvance]
    split
    · rw [value_pred_toNat hmx]
      exact Nat.sub_le ..
    · next hne =>
      have hlt : v.toNat < mx.toNat := lt_of_le_of_ne h fun he => hne (BitVec.eq_of_toNat_eq he)
      rw [value_succ_toNat hlt]
      exact hlt
  | descending =>
    simp only [triangleAdvance]
    split
    · exact hmx
    · next hne =>
      rw [value_pred_toNat (value_pos hne)]
      omega

theorem maxValue_pos (n : Resolution) : 0 < (maxValue n).toNat := by cases n <;> decide

end

end Sys2Proof.Machine

/-! PROOFS. The invariant of rule R40, kept by every step: what the trigger and the environment write does not touch it, a
sub-step leaves the state its operation is bound for as it was, and each beginning is bound for a state that meets it. -/

namespace Sys2Proof.Machine

open Sys2Proof Sys2Proof.Safety

/-! ### The waveform's part -/

/-- The waveform's part reads seven fields, the armed flag only outside Ready. -/
theorem waveform_of_same {s t : State} (h : Waveform s) (hl : t.lifecycle = s.lifecycle) (hc : t.cfg = s.cfg)
    (hp : t.phase = s.phase) (hi : t.stepIndex = s.stepIndex) (hv : t.currentValue = s.currentValue)
    (hd : t.direction = s.direction) (ha : s.lifecycle ≠ .ready → t.armed = s.armed) : Waveform t where
  notReady := fun hne => by
    rw [hl] at hne
    rw [hp, hv, hd, ha hne]
    exact h.notReady hne
  inRange := fun cfg hr => by
    rw [hv]
    exact h.inRange cfg ⟨hl ▸ hr.1, hc ▸ hr.2⟩
  idleIndex := fun hidle => by
    rw [hi]
    exact h.idleIndex (hp ▸ hidle)
  sweeping := fun hsweep => by
    obtain ⟨cfg, hr, hrest⟩ := h.sweeping (hp ▸ hsweep)
    rw [hi, hv, hd]
    exact ⟨cfg, ⟨hl.trans hr.1, hc.trans hr.2⟩, hrest⟩
  endpoint := fun cfg hr hfull hidle => by
    rw [hv, hd]
    exact h.endpoint cfg ⟨hl ▸ hr.1, hc ▸ hr.2⟩ hfull (hp ▸ hidle)

/-- Output events write none of them. -/
theorem waveform_emitAll {s : State} (h : Waveform s) (es : List Event) : Waveform (emitAll es s) :=
  waveform_of_same h (emitAll_lifecycle es s) (emitAll_cfg es s) (emitAll_phase es s) (emitAll_stepIndex es s)
    (emitAll_currentValue es s) (emitAll_direction es s) fun _ => emitAll_armed es s

/-- With no operation in progress the waveform's part is said of the state itself. -/
theorem waveform_of_idle {s : State} (h : Inv s) (hw : s.work = []) : Waveform s := by
  have := h.waveform
  rwa [settle_of_idle hw] at this

/-- What no operation in progress writes keeps the invariant when the state the operation is bound for does. -/
theorem inv_of_same {s t : State} (h : Inv s) (hb : t.build = s.build) (hf : t.fault = s.fault)
    (hl : t.lifecycle = s.lifecycle) (hc : t.cfg = s.cfg) (hw : s.lifecycle ≠ .ready → t.work = [])
    (hwave : Waveform t.settle) : Inv t where
  build := hb ▸ h.build
  fault := by rw [hf, hl]; exact h.fault
  configured := by rw [hl, hc]; exact h.configured
  channel := by rw [hc]; exact h.channel
  workReady := by rw [hl]; exact hw
  waveform := hwave

/-! ### The environment's moves -/

/-- What the trigger and the environment write keeps the invariant, the armed flag being theirs only in a Ready block. -/
theorem inv_withInputs {s : State} (h : Inv s) (trig : Bool) {armed : Bool} (port : Option Command) (script : List Move)
    (ha : s.lifecycle ≠ .ready → armed = s.armed) : Inv (withInputs trig armed port script s) := by
  refine inv_of_same h rfl rfl rfl rfl h.workReady ?_
  rw [settle_withInputs]
  refine waveform_of_same h.waveform rfl rfl rfl rfl rfl rfl fun hl => ?_
  rw [settle_armed]
  exact ha (by simpa using hl)

theorem inv_withScript {s : State} (h : Inv s) (rest : List Move) : Inv { s with script := rest } :=
  inv_withInputs h s.trigActive s.port rest fun _ => rfl

/-- RESET meets the invariant from any state of a legal build. -/
theorem inv_resetState {s : State} (hb : s.build.wellFormed = true) : Inv (resetState s) where
  build := hb
  fault := by simp
  configured := by simp
  channel := fun _ h => by cases h
  workReady := fun _ => rfl
  waveform := by
    rw [settle_of_idle rfl]
    exact
      { notReady := fun _ => ⟨rfl, rfl, rfl, rfl⟩
        inRange := fun _ hr => by cases hr.2
        idleIndex := fun _ => rfl
        sweeping := fun h => by cases h
        endpoint := fun _ hr => by cases hr.2 }

/-! ### CONFIGURE -/

section
variable {s : State} {cfg : DacConfiguration}

theorem cfg_none_of_inv {s : State} (h : Inv s) (hl : s.lifecycle ≠ .ready) : s.cfg = none :=
  Option.not_isSome_iff_eq_none.1 (mt h.configured.2 hl)

theorem inv_configured (h : Inv s) (hl : s.lifecycle = .unconfigured) (hw : s.work = []) {n : Resolution}
    {o : CfgOperand} (hwf : o.wellFormed = true) (interval : BitVec 32) : Inv (configured n o interval s) := by
  have hwave := waveform_of_idle h hw
  obtain ⟨-, hp, hv, hd⟩ := hwave.notReady (by simp [hl])
  exact
    { build := h.build
      fault := by
        show s.fault = _ ↔ Lifecycle.ready = _
        rw [h.fault, hl]
        simp
      configured := ⟨fun _ => rfl, fun _ => rfl⟩
      channel := fun c hc => by
        cases hc
        exact (channelExists_iff _ _).2 (CfgOperand_wellFormed_iff.1 hwf)
      workReady := fun hne => absurd rfl hne
      waveform := by
        rw [settle_of_idle (show (configured n o interval s).work = [] from hw)]
        exact
          { notReady := fun hne => absurd rfl hne
            inRange := fun c _ => by
              show s.currentValue.toNat ≤ _
              rw [hv]
              exact Nat.zero_le _
            idleIndex := fun _ => hwave.idleIndex hp
            sweeping := fun hs => by
              rw [show s.phase = .sweeping from hs] at hp
              cases hp
            endpoint := fun _ _ _ _ => .inl ⟨hv, hd⟩ } }

theorem inv_raiseInvalidModel (h : Inv s) (hl : s.lifecycle = .unconfigured) (hw : s.work = []) :
    Inv (raiseInvalidModel s) := by
  have hwave := waveform_of_idle h hw
  have hready : s.lifecycle ≠ .ready := by simp [hl]
  have hreset := hwave.notReady hready
  have hcfg := cfg_none_of_inv h hready
  exact
    { build := h.build
      fault := ⟨fun _ => rfl, fun _ => rfl⟩
      configured := by simp [hcfg]
      channel := fun c hc => by rw [raiseInvalidModel_cfg, hcfg] at hc; cases hc
      workReady := fun _ => hw
      waveform := by
        rw [settle_of_idle (show (raiseInvalidModel s).work = [] from hw)]
        exact
          { notReady := fun _ => hreset
            inRange := fun c hr => by cases hr.1
            idleIndex := hwave.idleIndex
            sweeping := fun hs => by
              have hp := hreset.2.1
              rw [show s.phase = .sweeping from hs] at hp
              cases hp
            endpoint := fun c hr => by cases hr.1 } }

/-! ### The operations of a Ready block -/

/-- An operation begun in a Ready block meets the invariant when it is bound for a waveform that does. -/
theorem inv_working (h : Inv s) (hr : ReadyWith s cfg) (hw : s.work = []) {ws : List SubStep}
    (hwave : Waveform (runSubs ws s)) : Inv { s with work := ws } :=
  inv_of_same h rfl rfl rfl rfl (fun hne => absurd hr.1 hne) (by rwa [settle_withWork hw])

/-- In a Ready block the waveform's part is about the one configuration held. -/
theorem waveform_of_ready (hr : ReadyWith s cfg) (hrange : s.currentValue.toNat ≤ (maxValue cfg.resolutionBits).toNat)
    (hidle : s.phase = .idle → s.stepIndex = 0)
    (hsweep : s.phase = .sweeping → cfg.sweepPolicy = .fullSweepPerTrigger ∧
      s.stepIndex.toNat ≤ (maxValue cfg.resolutionBits).toNat ∧ OnRamp cfg s.stepIndex s.currentValue s.direction)
    (hend : cfg.sweepPolicy = .fullSweepPerTrigger → s.phase = .idle → AtEndpoint cfg s.currentValue s.direction) :
    Waveform s where
  notReady := fun hne => absurd hr.1 hne
  inRange := fun cfg' hr' => by rwa [readyWith_unique hr hr']
  idleIndex := hidle
  sweeping := fun hp => ⟨cfg, hr, hsweep hp⟩
  endpoint := fun cfg' hr' hfull hp => by
    rw [readyWith_unique hr hr'] at hfull ⊢
    exact hend hfull hp

/-- A sweep begins at the endpoint its block waits at (rule R153). -/
theorem waveform_launched (h : Waveform s) (hs : Serving s cfg) (hfull : cfg.sweepPolicy = .fullSweepPerTrigger) :
    Waveform (launched s) :=
  waveform_of_ready (s := launched s) hs.1 (h.inRange cfg hs.1) (fun hp => by cases hp)
    (fun _ => ⟨hfull, Nat.zero_le _, onRamp_zero (h.endpoint cfg hs.1 hfull hs.2.1)⟩) (fun _ hp => by cases hp)

/-- A poll stays in the range (rule R147). -/
theorem waveform_polled (h : Waveform s) (hs : Serving s cfg) (hsingle : cfg.sweepPolicy = .singleStepPerPoll) :
    Waveform (polled cfg s) :=
  waveform_of_ready (s := polled cfg s) hs.1
    (triangleAdvance_le (maxValue_pos _) (h.inRange cfg hs.1)) (fun _ => h.idleIndex hs.2.1)
    (fun hp => by cases (show s.phase = .sweeping from hp).symm.trans hs.2.1)
    (fun hfull => by rw [hsingle] at hfull; cases hfull)

/-- A step stays on its ramp, and the last one ends at the other endpoint (rules R144, R145, R153). -/
theorem waveform_stepped (h : Waveform s) (hs : MidSweep s cfg) {v : Value}
    (hv : sweepValue (maxValue cfg.resolutionBits) s.stepIndex s.direction s.currentValue = .ok v) :
    Waveform (stepped cfg v s) := by
  obtain ⟨cfg', hr', hfull, hle, hramp⟩ := h.sweeping hs.2.1
  obtain rfl := readyWith_unique hs.1 hr'
  rw [sweepValue_onRamp hle hramp] at hv
  cases hv
  unfold stepped
  split
  · next hlast =>
    rw [hlast, sweepDatum_last]
    refine waveform_of_ready (cfg := cfg') hs.1 ?_ (fun _ => rfl) (fun hp => by cases hp)
      fun _ _ => farEndpoint_atEndpoint cfg' s.direction
    rw [← sweepDatum_last]
    exact sweepDatum_le le_rfl
  · next hmore =>
    have hlt : s.stepIndex.toNat < (maxValue cfg'.resolutionBits).toNat :=
      lt_of_le_of_ne hle fun he => hmore (BitVec.eq_of_toNat_eq he)
    refine waveform_of_ready (cfg := cfg') hs.1 (sweepDatum_le hle) (fun hp => ?_) (fun _ => ⟨hfull, ?_, onRamp_succ hlt⟩)
      fun _ hp => ?_
    · cases (show s.phase = .idle from hp).symm.trans hs.2.1
    · show (s.stepIndex + 1).toNat ≤ _
      rw [value_succ_toNat hlt]
      exact hlt
    · cases (show s.phase = .idle from hp).symm.trans hs.2.1

end

/-! ### Every step -/

/-- Everything that can be begun meets the invariant. -/
theorem inv_of_starts {i : Instr} {s u : State} (h : Starts s i u) (hinv : Inv s) : Inv u := by
  have hw := h.work_nil
  have hwave := waveform_of_idle hinv hw
  cases h with
  | configure interval hl hwf => exact inv_configured hinv hl hw hwf interval
  | invalidModel interval hl => exact inv_raiseInvalidModel hinv hl hw
  | write v hs => exact inv_working hinv hs.1 hw (waveform_emitAll hwave _)
  | @writeBoth cfg a b hs hd =>
    refine inv_working hinv hs.1 hw ?_
    rw [runSubs_append]
    have hframes := waveform_emitAll (waveform_emitAll hwave (busSendEvents (writeFrame cfg .A a)))
      (busSendEvents (writeFrame cfg .B b))
    split
    · rw [latchSubs, runSubs_emits]
      exact waveform_emitAll hframes _
    · exact hframes
  | @latch cfg hs =>
    refine inv_working hinv hs.1 hw ?_
    rw [latchSubs, runSubs_emits]
    exact waveform_emitAll hwave _
  | shutdown hs => exact inv_working hinv hs.1 hw (waveform_emitAll hwave _)
  | pollFull hs hfull =>
    refine inv_of_same hinv rfl rfl rfl rfl (fun hne => absurd hs.1.1 hne) ?_
    rw [settle_of_idle (show (launched s).work = [] from hw)]
    exact waveform_launched hwave hs hfull
  | pollFullUnarmed | pollSingleUnarmed => exact hinv
  | @pollSingle cfg hs hsingle =>
    refine inv_working hinv hs.1 hw ?_
    rw [runSubs_pollSingle]
    exact waveform_polled hwave hs hsingle
  | step hs hv =>
    refine inv_working hinv hs.1 hw ?_
    rw [runSubs_step (sweepValue_first hv)]
    exact waveform_stepped hwave hs hv

/-- So does what is left when it is done: the waveform's part was said of that state already. -/
theorem inv_settle {s : State} (h : Inv s) : Inv s.settle :=
  inv_of_same h (settle_build s) (settle_fault s) (settle_lifecycle s) (settle_cfg s) (fun _ => settle_work s)
    (by rw [settle_of_idle (settle_work s)]; exact h.waveform)

theorem inv_of_turns {s t : State} (h : Turns s t) (hinv : Inv s) : Inv t := by
  have hbusy {w : SubStep} {ws : List SubStep} (hwork : s.work = w :: ws) {t : State} (hne : s.lifecycle ≠ .ready) :
      t.work = [] := by
    rw [hinv.workReady hne] at hwork
    cases hwork
  cases h with
  | sub hwork =>
    refine inv_of_same hinv (by simp) (by simp) (by simp) (by simp) (hbusy hwork) ?_
    rw [settle_after_sub hwork]
    exact hinv.waveform
  | frameBegun hwork =>
    refine inv_of_same hinv rfl rfl rfl rfl (hbusy hwork) ?_
    rw [settle_after_csLow hwork]
    exact hinv.waveform
  | waiting => exact hinv
  | @operation i port u _ hport hu ht =>
    have hu' : Inv u := inv_of_starts hu (inv_withInputs hinv s.trigActive port s.script fun _ => rfl)
    rcases ht with rfl | rfl
    · exact hu'
    · exact inv_settle hu'

/-- Settles O57 (rules R39, R40): power-on is a RESET of itself. -/
theorem powerOnMeetsTheInvariant : Obligations.PowerOnMeetsTheInvariant :=
  inv_resetState (s := State.reset) (by decide)

/-- Settles O58 (rule R40): each move the environment can make and each turn the sequencer can take keeps the invariant. -/
theorem everyStepKeepsTheInvariant : Obligations.EveryStepKeepsTheInvariant := by
  intro s t hinv h
  cases moves_of_step h with
  | presented hscript hport => exact inv_withInputs hinv s.trigActive _ _ fun _ => rfl
  | rise hoff => exact inv_withInputs hinv true s.port _ fun hne => armedAfterRise_notReady hne _
  | fall hon => exact inv_withInputs hinv false s.port _ fun hne => armedAfterFall_notReady hne _ _
  | reset hscript => exact inv_resetState hinv.build
  | turn ht => exact inv_of_turns ht (inv_withScript hinv _)

end Sys2Proof.Machine

/-! PROOFS. The machine at the grain of rule R58: single sub-steps add up to the operation they are part of, a change of the
trigger pin commutes with each of them (rule R59), and a pause of a single-step ramp (rule R149). -/

namespace Sys2Proof.Machine

open Sys2Proof Sys2Proof.Safety

/-! ### Runs -/

theorem run_succ_of_step {s t : State} (h : step s = .next t) (k : Nat) : run (k + 1) s = run k t := by
  have h' : core.step s = .next t := h
  simp only [run, Host.Core.run, h']
  rfl

theorem run_succ_of_refused {s : State} {r : Refusal} (h : step s = .refused r) (k : Nat) :
    run (k + 1) s = .refused r := by
  have h' : core.step s = .refused r := h
  simp only [run, Host.Core.run, h']
  rfl

theorem run_succ_of_fault {s : State} {r : Fault} (h : step s = .fault r) (k : Nat) :
    run (k + 1) s = .fault r := by
  have h' : core.step s = .fault r := h
  simp only [run, Host.Core.run, h']
  rfl

theorem run_one (s : State) : run 1 s = step s := by
  cases h : step s with
  | next t => exact run_succ_of_step h 0
  | fault f => exact run_succ_of_fault h 0
  | refused r => exact run_succ_of_refused h 0

/-- A run goes on from where its first part ends. -/
theorem run_add_of_run {m : Nat} {s t : State} (h : run m s = .next t) (n : Nat) : run (m + n) s = run n t := by
  induction m generalizing s with
  | zero =>
    cases h
    rw [Nat.zero_add]
  | succ m ih =>
    cases hs : step s with
    | next u =>
      rw [run_succ_of_step hs] at h
      rw [Nat.succ_add, run_succ_of_step hs, ih h]
    | fault f =>
      rw [run_succ_of_fault hs] at h
      cases h
    | refused r =>
      rw [run_succ_of_refused hs] at h
      cases h

/-! ### One sub-step -/

/-- The next atomic sub-step: a frame is begun, everything else is done (rule R58). -/
def fineSub (w : SubStep) (ws : List SubStep) (s : State) : State :=
  match w with
  | .send f => emit .csLow { s with work := (busSendTail f).map .emit ++ ws }
  | w => runSub w { s with work := ws }

section
variable {s : State} {w : SubStep} {ws : List SubStep}

theorem fineTurn_busy (hw : s.work = w :: ws) : fineTurn s = .next (fineSub w ws s) := by
  cases w <;> simp only [fineTurn, hw, fineSub]

theorem step_fine {rest : List Move} (hscript : s.script = .fine :: rest) : step s = fineTurn { s with script := rest } := by
  simp only [step, takeMove, hscript]

theorem fineSub_withScript (w : SubStep) (ws : List SubStep) (script : List Move) (s : State) :
    fineSub w ws { s with script := script } = { fineSub w ws s with script := script } := by
  cases w with
  | send f => rfl
  | emit | setValue | setDirection | setPhase | setStepIndex => rfl

@[simp] theorem fineSub_lifecycle : (fineSub w ws s).lifecycle = s.lifecycle := by cases w <;> rfl
@[simp] theorem fineSub_cfg : (fineSub w ws s).cfg = s.cfg := by cases w <;> rfl
@[simp] theorem fineSub_armed : (fineSub w ws s).armed = s.armed := by cases w <;> rfl
@[simp] theorem fineSub_trigActive : (fineSub w ws s).trigActive = s.trigActive := by cases w <;> rfl
@[simp] theorem fineSub_build : (fineSub w ws s).build = s.build := by cases w <;> rfl

/-- It leaves the state its operation is bound for as it was. -/
theorem fineSub_settle (hw : s.work = w :: ws) : (fineSub w ws s).settle = s.settle := by
  cases w with
  | send f => exact settle_after_csLow hw
  | emit | setValue | setDirection | setPhase | setStepIndex => exact settle_after_sub hw

end

/-! ### Sub-steps add up -/

/-- The number of sub-steps in what is left to do: eighteen for a frame, one for everything else. -/
def fineSteps : List SubStep → Nat
  | [] => 0
  | .send _ :: ws => 18 + fineSteps ws
  | _ :: ws => 1 + fineSteps ws

theorem fineSteps_emits (es : List Event) (ws : List SubStep) :
    fineSteps (es.map .emit ++ ws) = es.length + fineSteps ws := by
  induction es with
  | nil => exact (Nat.zero_add _).symm
  | cons e es ih =>
    simp only [List.map_cons, List.cons_append, fineSteps, ih, List.length_cons]
    omega

theorem busSendTail_length (f : Frame) : (busSendTail f).length = 17 := by simp [busSendTail, frameBits_length]

/-- Each sub-step taken is one less to take. -/
theorem fineSteps_fineSub (w : SubStep) (ws : List SubStep) (s : State) :
    fineSteps (fineSub w ws s).work + 1 = fineSteps (w :: ws) := by
  cases w with
  | send f =>
    simp only [fineSub, emit_work, fineSteps_emits, busSendTail_length, fineSteps]
    omega
  | emit | setValue | setDirection | setPhase | setStepIndex => exact Nat.add_comm ..

/-- As many single sub-steps as are left complete the operation in progress. -/
theorem run_fineSteps (n : Nat) (rest : List Move) {u : State} (h : fineSteps u.work = n) :
    run n { u with script := List.replicate n .fine ++ rest } = .next { u.settle with script := rest } := by
  induction n generalizing u with
  | zero =>
    have hw : u.work = [] := by
      cases hw : u.work with
      | nil => rfl
      | cons w ws =>
        rw [hw, ← fineSteps_fineSub w ws u] at h
        cases h
    rw [settle_of_idle hw]
    rfl
  | succ n ih =>
    have hne : u.work ≠ [] := fun hw => by rw [hw] at h; cases h
    obtain ⟨w, ws, hw⟩ := List.exists_cons_of_ne_nil hne
    have hleft : fineSteps (fineSub w ws u).work = n := by
      rw [hw, ← fineSteps_fineSub w ws u] at h
      omega
    have hstep : step { u with script := List.replicate (n + 1) .fine ++ rest } =
        .next { fineSub w ws u with script := List.replicate n .fine ++ rest } := by
      rw [step_fine (rest := List.replicate n .fine ++ rest) rfl, ← fineSub_withScript]
      exact fineTurn_busy hw
    rw [run_succ_of_step hstep, ih hleft, fineSub_settle hw]

/-- Begun and then done is run whole. -/
theorem exec_of_start {i : Instr} {s u : State} (hw : s.work = []) (h : start i s = .next u) :
    exec i s = .next u.settle := by
  have hframe {f : Frame} (hi : encode s.deviceBuild i = .frame f) (hstart : startFrame f s (exec i s) = .next u) :
      exec i s = .next u.settle := by
    cases hexec : exec i s with
    | next t =>
      rw [hexec] at hstart
      cases hstart
      rw [exec_frame_next hi hexec]
      rw [show pushFrame f s = { s with work := [.send f] } by rw [pushFrame, hw], settle_withWork hw]
      rfl
    | fault r => rw [hexec] at hstart; cases hstart
    | refused r => rw [hexec] at hstart; cases hstart
  cases i with
  | frameWrite12 | frameWrite10 | frameWrite8 | frameShutdown => exact hframe rfl h
  | configure | write | writeBoth | latch | shutdown | pollFull | pollSingle | step =>
    rw [exec_eq_complete rfl, h, complete_next_eq]
  | trigRise =>
    obtain ⟨-, rfl⟩ := exec_trigRise_next h
    rw [settle_of_idle (s := takeTrigger true _ s) hw]
    exact h
  | trigFall =>
    obtain ⟨-, rfl⟩ := exec_trigFall_next h
    rw [settle_of_idle (s := takeTrigger false _ s) hw]
    exact h
  | reset =>
    cases h
    rw [settle_of_idle (resetState_work s)]
    rfl

/-- Settles O55 (rules R8, R14, R58). -/
theorem subStepsAddUpToTheOperation : Obligations.SubStepsAddUpToTheOperation :=
  fun _ _ _ rest hw h => ⟨exec_of_start hw h, _, run_fineSteps _ rest rfl⟩

/-! ### The trigger pin between sub-steps -/

/-- The armed flag after the edge to a level (rules R141, R142). -/
def edgeArmed (level : Bool) (s : State) : Bool :=
  if level then armedAfterRise s.lifecycle s.armed else armedAfterFall s.lifecycle s.cfg s.armed

/-- What a change of the trigger pin to active or inactive does: nothing is selected where it is no change (rule R97). -/
def pinTo (level : Bool) (s : State) : Result :=
  if s.trigActive = level then .refused (.badEncoding .nothingSelected) else .next (takeTrigger level (edgeArmed level s) s)

theorem pinTo_same {s : State} {level : Bool} (h : s.trigActive = level) :
    pinTo level s = .refused (.badEncoding .nothingSelected) := if_pos h

theorem pinTo_edge {s : State} {level : Bool} (h : s.trigActive ≠ level) :
    pinTo level s = .next (takeTrigger level (edgeArmed level s) s) := if_neg h

theorem decodeTrig_transition (before after : Bool) :
    decodeTrig (BitVec.ofBool before ++ BitVec.ofBool after) =
      if before = after then .rejected .nothingSelected else .ok (if after then .trigRise else .trigFall) := by
  cases before <;> cases after <;> rfl

/-- The pin decoded and its edge taken. -/
theorem runDecoded_trigTransition (m : Mode) (p : TriggerPolarity) (high : Bool) (s : State) :
    runDecoded exec (decode s.build m (.trig (trigTransition p s.trigActive high))) s = pinTo (p.active high) s := by
  rw [show decode s.build m (.trig (trigTransition p s.trigActive high)) = _ from decodeTrig_transition _ _, pinTo]
  generalize p.active high = level
  split
  · rfl
  · next hne =>
    cases level with
    | true =>
      have hoff : s.trigActive = false := by simpa using hne
      simp only [runDecoded, if_true, exec, execTrigRise, hoff, Bool.not_false, require_true, edgeArmed]
    | false =>
      have hon : s.trigActive = true := by simpa using hne
      simp only [runDecoded, Bool.false_eq_true, if_false, exec, execTrigFall, hon, require_true, edgeArmed]

theorem step_pinTo {s : State} {high : Bool} {rest : List Move} (hscript : s.script = .trigPin high :: rest) :
    step s = pinTo (s.build.triggerPolarity.active high) { s with script := rest } := by
  rw [step_trigPin hscript]
  exact runDecoded_trigTransition _ _ _ { s with script := rest }

/-- A sub-step neither reads nor writes what the edge writes, nor writes what it reads (rule R59). -/
theorem fineSub_takeTrigger (w : SubStep) (ws : List SubStep) (level armed : Bool) (s : State) :
    fineSub w ws (takeTrigger level armed s) = takeTrigger level armed (fineSub w ws s) := by
  cases w with
  | send f => rfl
  | emit | setValue | setDirection | setPhase | setStepIndex => rfl

theorem edgeArmed_fineSub (w : SubStep) (ws : List SubStep) (level : Bool) (s : State) :
    edgeArmed level (fineSub w ws s) = edgeArmed level s := by
  simp [edgeArmed]

/-- A sub-step after an edge is the edge after the sub-step. -/
theorem fineTurn_takeTrigger {s : State} {w : SubStep} {ws : List SubStep} (hw : s.work = w :: ws) (level : Bool) :
    fineTurn (takeTrigger level (edgeArmed level s) s) =
      .next (takeTrigger level (edgeArmed level (fineSub w ws s)) (fineSub w ws s)) := by
  rw [fineTurn_busy (s := takeTrigger level _ s) hw, fineSub_takeTrigger, edgeArmed_fineSub]

/-- Settles O56 (rule R59): the same change is an edge, or none, before and after the sub-step, and commutes with it. -/
theorem triggerCommutesWithSubSteps : Obligations.TriggerCommutesWithSubSteps := by
  intro s high rest hne
  obtain ⟨w, ws, hw⟩ := List.exists_cons_of_ne_nil hne
  have hsub : step { s with script := .fine :: .trigPin high :: rest } =
      .next (fineSub w ws { s with script := .trigPin high :: rest }) :=
    (step_fine rfl).trans (fineTurn_busy hw)
  have hafter : step (fineSub w ws { s with script := .trigPin high :: rest }) =
      pinTo (s.build.triggerPolarity.active high) (fineSub w ws { s with script := rest }) := by
    simpa only [fineSub_withScript, fineSub_build] using
      step_pinTo (s := { fineSub w ws s with script := .trigPin high :: rest }) rfl
  have hbefore := step_pinTo (s := { s with script := .trigPin high :: .fine :: rest }) rfl
  rw [run_succ_of_step hsub, run_one, hafter]
  generalize s.build.triggerPolarity.active high = level at hbefore ⊢
  have htrig : (fineSub w ws { s with script := rest }).trigActive = s.trigActive := fineSub_trigActive
  by_cases hlevel : s.trigActive = level
  · exact (pinTo_same (htrig.trans hlevel)).trans
      (run_succ_of_refused (hbefore.trans (pinTo_same hlevel)) 1).symm
  · rw [run_succ_of_step (hbefore.trans (pinTo_edge hlevel)), run_one, step_fine rfl]
    exact (pinTo_edge fun h => hlevel (htrig.symm.trans h)).trans
      (fineTurn_takeTrigger (s := { s with script := rest }) hw level).symm

/-! ### A pause -/

/-- What an instruction leaves as it is, it leaves as it is any number of times. -/
theorem repeatExec_of_fixed {i : Instr} {s : State} (h : exec i s = .next s) (n : Nat) : repeatExec i n s = .next s := by
  induction n with
  | zero => rfl
  | succ n ih => simp only [repeatExec, h, ih]

theorem exec_trigRise {s : State} (hoff : s.trigActive = false) :
    exec .trigRise s = .next (takeTrigger true (armedAfterRise s.lifecycle s.armed) s) := by
  rw [exec, execTrigRise, hoff, Bool.not_false, require_true]

/-- Settles O51 (rule R149): the flag cleared by the inactive edge makes every poll a no-op, and the active edge sets the two
fields again that the pause cleared. -/
theorem pauseChangesNothing : Obligations.PauseChangesNothing := by
  intro s cfg n hs hsingle hon harmed
  refine ⟨takeTrigger false false s, ?fall, ?polls, ?rise⟩
  case fall => rw [exec_trigFall hon, armedAfterFall_single hs.1 hsingle]
  case polls => exact repeatExec_of_fixed (exec_pollSingle_unarmed (s := takeTrigger false false s) hs hsingle rfl) n
  case rise =>
    rw [exec_trigRise rfl, takeTrigger_lifecycle, hs.1.1]
    refine congrArg Host.Outcome.next ?_
    cases s
    cases hon
    cases harmed
    rfl

end Sys2Proof.Machine

/-! PROOFS. Sweeps (rules R144 to R146, R152 to R156): the state after each step of one, its end from any point, and sweeps
among polls and trigger edges. -/

namespace Sys2Proof.Machine

open Sys2Proof Sys2Proof.Safety

/-! ### The state after each step -/

theorem sweepEvents_succ (cfg : DacConfiguration) (d : Direction) (k : Nat) :
    sweepEvents cfg d (k + 1) = sweepEvents cfg d k ++ outputEvents cfg (sweepDatum cfg d k) := by
  simp [sweepEvents, List.range_succ]

/-- A sweep begun at `s` after `k` of its steps but the last: `k` outputs sent, the counter at the last value sent. -/
def duringSweep (cfg : DacConfiguration) (s : State) : Nat → State
  | 0 => s
  | k + 1 =>
    { sent s (sweepEvents cfg s.direction (k + 1)) with
      stepIndex := BitVec.ofNat 12 (k + 1)
      currentValue := sweepDatum cfg s.direction k
      csN := true
      ldacN := ldacAfterLatch cfg s.ldacN }

/-- A sweep begun at `s` after `k` of its steps. -/
def sweepState (cfg : DacConfiguration) (s : State) (k : Nat) : State :=
  if k = sweepLength cfg then afterSweep cfg s else duringSweep cfg s k

section
variable {cfg : DacConfiguration} {s : State}

@[simp] theorem duringSweep_direction (k : Nat) : (duringSweep cfg s k).direction = s.direction := by cases k <;> rfl
@[simp] theorem duringSweep_phase (k : Nat) : (duringSweep cfg s k).phase = s.phase := by cases k <;> rfl
@[simp] theorem duringSweep_work (k : Nat) : (duringSweep cfg s k).work = s.work := by cases k <;> rfl
@[simp] theorem duringSweep_lifecycle (k : Nat) : (duringSweep cfg s k).lifecycle = s.lifecycle := by cases k <;> rfl
@[simp] theorem duringSweep_cfg (k : Nat) : (duringSweep cfg s k).cfg = s.cfg := by cases k <;> rfl
@[simp] theorem duringSweep_script (k : Nat) : (duringSweep cfg s k).script = s.script := by cases k <;> rfl
@[simp] theorem duringSweep_build (k : Nat) : (duringSweep cfg s k).build = s.build := by cases k <;> rfl

theorem duringSweep_trace (k : Nat) : (duringSweep cfg s k).trace = s.trace ++ sweepEvents cfg s.direction k := by
  cases k with
  | zero => exact (List.append_nil _).symm
  | succ k => rfl

theorem duringSweep_withInputs (trig armed : Bool) (port : Option Command) (script : List Move) (k : Nat) :
    duringSweep cfg (withInputs trig armed port script s) k = withInputs trig armed port script (duringSweep cfg s k) := by
  cases k with
  | zero => rfl
  | succ k => simp only [duringSweep, withInputs, sent, State.latchLine]

theorem afterSweep_withInputs (trig armed : Bool) (port : Option Command) (script : List Move) :
    afterSweep cfg (withInputs trig armed port script s) = withInputs trig armed port script (afterSweep cfg s) := by
  simp only [afterSweep, withInputs, sent, State.latchLine]

theorem sweepState_withInputs (trig armed : Bool) (port : Option Command) (script : List Move) (k : Nat) :
    sweepState cfg (withInputs trig armed port script s) k = withInputs trig armed port script (sweepState cfg s k) := by
  unfold sweepState
  split
  · exact afterSweep_withInputs ..
  · exact duringSweep_withInputs ..

theorem ldacAfterLatch_idem (cfg : DacConfiguration) (level : Bool) :
    ldacAfterLatch cfg (ldacAfterLatch cfg level) = ldacAfterLatch cfg level := by
  simp [ldacAfterLatch]

/-- One more output after `k` of them. -/
theorem outputDone_duringSweep (k : Nat) :
    outputDone cfg (sweepDatum cfg s.direction k) (duringSweep cfg s k) =
      { sent s (sweepEvents cfg s.direction (k + 1)) with
        stepIndex := (duringSweep cfg s k).stepIndex
        currentValue := (duringSweep cfg s k).currentValue
        csN := true
        ldacN := ldacAfterLatch cfg s.ldacN } := by
  cases k with
  | zero =>
    rw [show sweepEvents cfg s.direction (0 + 1) = outputEvents cfg (sweepDatum cfg s.direction 0) from sweepEvents_succ ..]
    rfl
  | succ k =>
    simp only [sweepEvents_succ cfg s.direction (k + 1), duringSweep, outputDone, sent, sees_append, List.append_assoc,
      ldacAfterLatch_idem, State.latchLine]

/-- A sweep begins here: its start endpoint, between two steps, none counted. -/
abbrev SweepStart (s : State) (cfg : DacConfiguration) : Prop :=
  MidSweep s cfg ∧ s.stepIndex = 0 ∧ AtEndpoint cfg s.currentValue s.direction

theorem duringSweep_index (h0 : s.stepIndex = 0) {k : Nat} (hk : k ≤ (maxValue cfg.resolutionBits).toNat) :
    (duringSweep cfg s k).stepIndex.toNat = k := by
  cases k with
  | zero => rw [duringSweep, h0]; rfl
  | succ k =>
    have := (maxValue cfg.resolutionBits).isLt
    exact Nat.mod_eq_of_lt (by omega)

theorem duringSweep_midSweep (h : MidSweep s cfg) (k : Nat) : MidSweep (duringSweep cfg s k) cfg := by
  simpa [MidSweep, ReadyWith] using h

theorem duringSweep_onRamp (h : SweepStart s cfg) {k : Nat} (hk : k ≤ (maxValue cfg.resolutionBits).toNat) :
    OnRamp cfg (duringSweep cfg s k).stepIndex (duringSweep cfg s k).currentValue s.direction := by
  obtain ⟨-, h0, hend⟩ := h
  cases k with
  | zero =>
    show OnRamp cfg s.stepIndex s.currentValue s.direction
    rw [h0]
    exact onRamp_zero hend
  | succ k =>
    have hindex := duringSweep_index (cfg := cfg) h0 (Nat.le_of_succ_le hk)
    have hramp := onRamp_succ (cfg := cfg) (d := s.direction) (index := (duringSweep cfg s k).stepIndex)
      (by rw [hindex]; exact hk)
    rw [hindex] at hramp
    have hnext : (duringSweep cfg s k).stepIndex + 1 = (duringSweep cfg s (k + 1)).stepIndex := by
      apply BitVec.eq_of_toNat_eq
      rw [value_succ_toNat (mx := maxValue cfg.resolutionBits) (by rw [hindex]; exact hk), hindex,
        duringSweep_index h0 hk]
    rwa [hnext] at hramp

/-- Each step of the machine's STEP is the next state of the sweep. -/
theorem exec_step_sweepState (h : SweepStart s cfg) {k : Nat} (hk : k < sweepLength cfg) :
    exec .step (sweepState cfg s k) = .next (sweepState cfg s (k + 1)) := by
  rw [sweepLength_eq] at hk
  have hle : k ≤ (maxValue cfg.resolutionBits).toNat := Nat.le_of_lt_succ hk
  have hindex := duringSweep_index (cfg := cfg) h.2.1 hle
  have hv := sweepValue_onRamp (by rw [hindex]; exact hle) (duringSweep_onRamp h hle)
  rw [hindex] at hv
  rw [sweepState, if_neg (by rw [sweepLength_eq]; omega),
    exec_step (duringSweep_midSweep h.1 k) (v := sweepDatum cfg s.direction k) (by rwa [duringSweep_direction]), stepped,
    outputDone_duringSweep, sweepState, duringSweep_direction]
  by_cases hlast : k = (maxValue cfg.resolutionBits).toNat
  · have hstep : (duringSweep cfg s k).stepIndex = maxValue cfg.resolutionBits :=
      BitVec.eq_of_toNat_eq (hindex.trans hlast)
    rw [if_pos hstep, if_pos (by rw [sweepLength_eq, hlast]), afterSweep, sweepLength_eq, ← hlast]
    rw [← sweepDatum_last, ← hlast]
  · have hstep : (duringSweep cfg s k).stepIndex ≠ maxValue cfg.resolutionBits := fun he =>
      hlast (by rw [← hindex, he])
    have hnext : (duringSweep cfg s k).stepIndex + 1 = BitVec.ofNat 12 (k + 1) := by
      apply BitVec.eq_of_toNat_eq
      rw [value_succ_toNat (mx := maxValue cfg.resolutionBits) (by omega), hindex]
      have := (maxValue cfg.resolutionBits).isLt
      exact (Nat.mod_eq_of_lt (by omega)).symm
    rw [if_neg hstep, if_neg (by rw [sweepLength_eq]; omega), hnext, duringSweep]

end

end Sys2Proof.Machine

/-! PROOFS. Runs of the machine through sweeps: one alone, one from any of its points, and sweeps among polls and trigger
edges (rules R145, R146, R154, R156). -/

namespace Sys2Proof.Machine

open Sys2Proof Sys2Proof.Safety

theorem run_trans {m n : Nat} {s t : State} {r : Result} (h : run m s = .next t) (h' : run n t = r) :
    run (m + n) s = r :=
  (run_add_of_run h n).trans h'

/-- A state with its script set to what it is. -/
theorem withScript_self {s : State} {script : List Move} (h : s.script = script) : { s with script := script } = s := by
  subst h
  rfl

section
variable {s : State} {cfg : DacConfiguration}

/-! ### A sweep alone -/

/-- While a sweep runs the turn is STEP's (rule R146). -/
theorem step_sweep {rest : List Move} (hturn : TurnNext s rest) (h : MidSweep s cfg) :
    step s = exec .step { s with script := rest } :=
  step_sweeping hturn h.2.2.1 h.2.1

theorem sweepState_zero : sweepState cfg s 0 = s := by
  rw [sweepState, if_neg (by rw [sweepLength_eq]; omega), duringSweep]

theorem run_sweepState (h : SweepStart s cfg) (hscript : s.script = []) {k : Nat} (hk : k ≤ sweepLength cfg) :
    run k s = .next (sweepState cfg s k) := by
  induction k with
  | zero => rw [sweepState_zero]; rfl
  | succ k ih =>
    refine run_trans (ih (Nat.le_of_succ_le hk)) ?_
    have hduring : sweepState cfg s k = duringSweep cfg s k := if_neg (Nat.ne_of_lt hk)
    have hscript' : (duringSweep cfg s k).script = [] := by rw [duringSweep_script, hscript]
    rw [run_one, ← exec_step_sweepState h hk, hduring,
      step_sweep (.inr ⟨hscript', rfl⟩) (duringSweep_midSweep h.1 k), withScript_self hscript']

/-- Settles O47 (rule R145): the run goes through the states of the sweep, one for each step. -/
theorem fullSweepIsExact : Obligations.FullSweepIsExact := by
  intro s cfg hmid h0 hend hscript
  refine ⟨(run_sweepState ⟨hmid, h0, hend⟩ hscript le_rfl).trans (congrArg _ (if_pos rfl)), fun k hk => ?_⟩
  refine ⟨duringSweep cfg s k, ?run, ?phase, ?index, duringSweep_trace k⟩
  case run => exact (run_sweepState ⟨hmid, h0, hend⟩ hscript hk.le).trans (congrArg _ (if_neg hk.ne))
  case phase => rw [duringSweep_phase, hmid.2.1]
  case index =>
    rw [sweepLength_eq] at hk
    exact duringSweep_index h0 (Nat.le_of_lt_succ hk)

/-! ### A sweep from any of its points -/

theorem stepped_last {v : Value} (h : s.stepIndex = maxValue cfg.resolutionBits) :
    stepped cfg v s =
      { outputDone cfg v s with currentValue := v, direction := s.direction.flip, phase := .idle, stepIndex := 0 } :=
  if_pos h

theorem stepped_more {v : Value} (h : s.stepIndex ≠ maxValue cfg.resolutionBits) :
    stepped cfg v s = { outputDone cfg v s with currentValue := v, stepIndex := s.stepIndex + 1 } := if_neg h

/-- The turn of a sweep on its ramp sends the datum of its number. -/
theorem step_onRamp {rest : List Move} (hturn : TurnNext s rest) (hmid : MidSweep s cfg)
    (hle : s.stepIndex.toNat ≤ (maxValue cfg.resolutionBits).toNat)
    (hramp : OnRamp cfg s.stepIndex s.currentValue s.direction) :
    step s = .next (stepped cfg (sweepDatum cfg s.direction s.stepIndex.toNat) { s with script := rest }) :=
  (step_sweep hturn hmid).trans (exec_step (s := { s with script := rest }) hmid (sweepValue_onRamp hle hramp))

/-- A script of turns, or of nothing, gives the turn and is one again. -/
theorem turnNext_of_turns {n : Nat} (h : s.script = [] ∨ s.script = List.replicate (n + 1) .turn) :
    ∃ rest, TurnNext s rest ∧ (rest = [] ∨ rest = List.replicate n .turn) := by
  rcases h with h | h
  · exact ⟨[], .inr ⟨h, rfl⟩, .inl rfl⟩
  · exact ⟨List.replicate n .turn, .inl h, .inr rfl⟩

/-- The steps still owed, taken with no other move between them, bring the block to Idle. -/
theorem run_to_idle {n : Nat} (hmid : MidSweep s cfg) (hramp : OnRamp cfg s.stepIndex s.currentValue s.direction)
    (hn : s.stepIndex.toNat + (n + 1) = sweepLength cfg)
    (hscript : s.script = [] ∨ s.script = List.replicate (n + 1) .turn) :
    ∃ t, run (n + 1) s = .next t ∧ t.phase = .idle ∧ t.stepIndex = 0 ∧ t.work = [] ∧ t.script = [] ∧ t.port = s.port := by
  rw [sweepLength_eq] at hn
  induction n generalizing s with
  | zero =>
    obtain ⟨rest, hturn, hrest⟩ := turnNext_of_turns hscript
    have hstep := step_onRamp hturn hmid (by omega) hramp
    have hlast : s.stepIndex = maxValue cfg.resolutionBits := BitVec.eq_of_toNat_eq (by omega)
    rw [stepped_last (s := { s with script := rest }) hlast] at hstep
    exact ⟨_, (run_one s).trans hstep, rfl, rfl, hmid.2.2.1, hrest.elim id id, rfl⟩
  | succ n ih =>
    obtain ⟨rest, hturn, hrest⟩ := turnNext_of_turns hscript
    have hlt : s.stepIndex.toNat < (maxValue cfg.resolutionBits).toNat := by omega
    have hstep := step_onRamp hturn hmid hlt.le hramp
    have hmore : s.stepIndex ≠ maxValue cfg.resolutionBits := fun he => by rw [he] at hlt; exact lt_irrefl _ hlt
    rw [stepped_more (s := { s with script := rest }) hmore] at hstep
    rw [run_succ_of_step hstep]
    refine ih (s := { outputDone cfg _ { s with script := rest } with currentValue := _, stepIndex := s.stepIndex + 1 }) hmid
      (onRamp_succ hlt) ?_ hrest
    show (s.stepIndex + 1).toNat + (n + 1) = _
    rw [value_succ_toNat hlt]
    omega

theorem turnsToIdle_between_steps (hcfg : s.cfg = some cfg) (hp : s.phase = .sweeping) (hw : s.work = []) :
    turnsToIdle s = sweepLength cfg - s.stepIndex.toNat := by
  simp [turnsToIdle, hp, hcfg, hw, sweepLength]

/-- Settles O48 (rules R100, R156): the invariant puts the sweep on its ramp, and `sweep` is a turn for each step owed. -/
theorem everySweepEnds : Obligations.EverySweepEnds := by
  intro s cfg hinv hcfg hp hw
  obtain ⟨cfg', hr, -, hle, hramp⟩ := (waveform_of_idle hinv hw).sweeping hp
  obtain rfl : cfg' = cfg := Option.some.inj (hr.2.symm.trans hcfg)
  have hmid : MidSweep s cfg' := ⟨hr, hp, hw, hinv.channel cfg' hcfg⟩
  obtain ⟨n, hn⟩ : ∃ n, sweepLength cfg' - s.stepIndex.toNat = n + 1 :=
    Nat.exists_eq_succ_of_ne_zero (by rw [sweepLength_eq]; omega)
  have hsum : s.stepIndex.toNat + (n + 1) = sweepLength cfg' := by omega
  rw [hn]
  constructor
  · intro hscript
    obtain ⟨t, hrun, hidle, hindex, -⟩ := run_to_idle hmid hramp hsum (.inl hscript)
    exact ⟨t, hrun, hidle, hindex⟩
  · refine run_to_idle (s := { s with script := expandPseudo s .sweep }) hmid hramp hsum (.inr ?_)
    show List.replicate (turnsToIdle s) Move.turn = _
    rw [turnsToIdle_between_steps hcfg hp hw, hn]

end

end Sys2Proof.Machine

/-! PROOFS. Sweeps among polls and trigger edges (rules R146, R154, R212). A state is written as what the trigger and the
environment write (`withInputs`) over the rest, which only the sequencer's turns change. -/

namespace Sys2Proof.Machine

open Sys2Proof Sys2Proof.Safety

/-! ### Counting edges -/

theorem levelAfter_succ (a : Bool) (n : Nat) : levelAfter a (n + 1) = levelAfter (!a) n := by
  unfold levelAfter
  rcases Nat.mod_two_eq_zero_or_one n with h | h
  · simp [h, show (n + 1) % 2 = 1 by omega]
  · simp [h, show (n + 1) % 2 = 0 by omega]

@[simp] theorem levelAfter_zero (a : Bool) : levelAfter a 0 = a := rfl

theorem levelAfter_add (a : Bool) (m n : Nat) : levelAfter a (m + n) = levelAfter (levelAfter a m) n := by
  induction m generalizing a with
  | zero => rw [Nat.zero_add, levelAfter_zero]
  | succ m ih => rw [Nat.succ_add, levelAfter_succ, ih, levelAfter_succ]

/-- Edges alternate, so that the first of them is active exactly from the inactive level. -/
theorem activeEdges_succ (a : Bool) (n : Nat) : activeEdges a (n + 1) = (!a).toNat + activeEdges (!a) n := by
  cases a
  · simp [activeEdges]
    omega
  · simp [activeEdges]

theorem activeEdges_add (a : Bool) (m n : Nat) :
    activeEdges a (m + n) = activeEdges a m + activeEdges (levelAfter a m) n := by
  induction m generalizing a with
  | zero => cases a <;> simp [activeEdges, levelAfter]
  | succ m ih => rw [Nat.succ_add, activeEdges_succ, ih, activeEdges_succ, levelAfter_succ, Nat.add_assoc]

/-- The armed flag after `n` edges of a full-sweep block from the level `a`: an active one sets it, none clears it. -/
def armedAfter (armed a : Bool) (n : Nat) : Bool := armed || decide (0 < activeEdges a n)

theorem armedAfter_zero (armed a : Bool) : armedAfter armed a 0 = armed := by
  cases a <;> simp [armedAfter, activeEdges]

theorem armedAfter_succ (armed a : Bool) (n : Nat) : armedAfter armed a (n + 1) = armedAfter (armed || !a) (!a) n := by
  unfold armedAfter
  rw [activeEdges_succ]
  cases a <;> simp

theorem armedAfter_add (armed a : Bool) (m n : Nat) :
    armedAfter armed a (m + n) = armedAfter (armedAfter armed a m) (levelAfter a m) n := by
  unfold armedAfter
  rw [activeEdges_add, Bool.or_assoc, ← Bool.decide_or]
  congr 2
  exact propext (by omega)

section
variable {s : State} {cfg : DacConfiguration} {trig armed : Bool} {port : Option Command} {rest : List Move}

/-! ### Edges -/

theorem active_active (p : TriggerPolarity) (b : Bool) : p.active (p.active b) = b := by cases p <;> simp [TriggerPolarity.active]

/-- Under FullSweepPerTrigger an edge sets the flag if it is active and leaves it otherwise (rules R141, R142). -/
theorem edgeArmed_full (hr : ReadyWith s cfg) (hfull : cfg.sweepPolicy = .fullSweepPerTrigger) (level : Bool) :
    edgeArmed level s = (s.armed || level) := by
  cases level with
  | true => simp [edgeArmed, armedAfterRise, hr.1]
  | false =>
    rw [edgeArmed, if_neg Bool.false_ne_true, armedAfterFall_full hr hfull, Bool.or_false]

theorem step_edge (hr : ReadyWith s cfg) (hfull : cfg.sweepPolicy = .fullSweepPerTrigger) :
    step (withInputs trig armed port (edge s.build (!trig) :: rest) s) =
      .next (withInputs (!trig) (armed || !trig) port rest s) := by
  refine (step_pinTo (s := withInputs trig armed port (edge s.build (!trig) :: rest) s) rfl).trans ?_
  rw [show (withInputs trig armed port (edge s.build (!trig) :: rest) s).build = s.build from rfl, active_active]
  refine (pinTo_edge (s := withInputs trig armed port rest s) (by simp [withInputs])).trans ?_
  rw [edgeArmed_full (s := withInputs trig armed port rest s) hr hfull]
  rfl

theorem run_edges (hr : ReadyWith s cfg) (hfull : cfg.sweepPolicy = .fullSweepPerTrigger) (n : Nat) :
    run n (withInputs trig armed port (edgesFrom s.build trig n ++ rest) s) =
      .next (withInputs (levelAfter trig n) (armedAfter armed trig n) port rest s) := by
  induction n generalizing trig armed with
  | zero =>
    rw [armedAfter_zero]
    rfl
  | succ n ih =>
    have hstep := step_edge (s := s) (trig := trig) (armed := armed) (port := port)
      (rest := edgesFrom s.build (!trig) n ++ rest) hr hfull
    rw [show edgesFrom s.build trig (n + 1) ++ rest = edge s.build (!trig) :: (edgesFrom s.build (!trig) n ++ rest) from rfl,
      run_succ_of_step hstep, ih, levelAfter_succ, armedAfter_succ]

/-! ### The turns of a sweep, with edges before them -/

theorem sweepState_full : sweepState cfg s (sweepLength cfg) = afterSweep cfg s := if_pos rfl

theorem sweepState_ready (hr : ReadyWith s cfg) (k : Nat) : ReadyWith (sweepState cfg s k) cfg := by
  unfold sweepState
  split
  · exact hr
  · simpa [ReadyWith] using hr

theorem sweepState_build (k : Nat) : (sweepState cfg s k).build = s.build := by
  unfold sweepState
  split
  · rfl
  · exact duringSweep_build k

theorem step_turn_sweepState (h : SweepStart s cfg) {k : Nat} (hk : k < sweepLength cfg) :
    step (withInputs trig armed port (.turn :: rest) (sweepState cfg s k)) =
      .next (withInputs trig armed port rest (sweepState cfg s (k + 1))) := by
  have hduring : sweepState cfg s k = duringSweep cfg s k := if_neg (Nat.ne_of_lt hk)
  have hexec := exec_step_sweepState (s := withInputs trig armed port rest s) h hk
  rw [sweepState_withInputs, sweepState_withInputs] at hexec
  rw [← hexec, hduring]
  exact step_sweep (s := withInputs trig armed port (.turn :: rest) (duringSweep cfg s k)) (.inl rfl)
    (duringSweep_midSweep h.1 k)

/-- The turns of a sweep go through its states whatever the edges before them, which only move the trigger. -/
theorem run_turnsWithEdges (h : SweepStart s cfg) (hfull : cfg.sweepPolicy = .fullSweepPerTrigger) (counts : List Nat)
    {k : Nat} (hk : k + counts.length ≤ sweepLength cfg) :
    run (counts.sum + counts.length)
        (withInputs trig armed port (turnsWithEdges s.build trig counts ++ rest) (sweepState cfg s k)) =
      .next (withInputs (levelAfter trig counts.sum) (armedAfter armed trig counts.sum) port rest
        (sweepState cfg s (k + counts.length))) := by
  induction counts generalizing trig armed k with
  | nil =>
    rw [List.sum_nil, armedAfter_zero]
    rfl
  | cons n ns ih =>
    rw [List.length_cons] at hk
    have hedges := run_edges (s := sweepState cfg s k) (trig := trig) (armed := armed) (port := port)
      (rest := .turn :: (turnsWithEdges s.build (levelAfter trig n) ns ++ rest)) (sweepState_ready h.1.1 k) hfull n
    have hturn := step_turn_sweepState (trig := levelAfter trig n) (armed := armedAfter armed trig n) (port := port)
      (rest := turnsWithEdges s.build (levelAfter trig n) ns ++ rest) h (k := k) (by omega)
    have hrest := ih (trig := levelAfter trig n) (armed := armedAfter armed trig n) (k := k + 1) (by omega)
    rw [sweepState_build] at hedges
    rw [show turnsWithEdges s.build trig (n :: ns) ++ rest =
        edgesFrom s.build trig n ++ .turn :: (turnsWithEdges s.build (levelAfter trig n) ns ++ rest) by
          simp [turnsWithEdges],
      show (n :: ns).sum + (n :: ns).length = n + (ns.sum + ns.length + 1) by
        rw [List.sum_cons, List.length_cons]; omega]
    rw [run_trans hedges (run_succ_of_step hturn _), hrest, List.sum_cons, levelAfter_add, armedAfter_add,
      List.length_cons, Nat.add_assoc, Nat.add_comm 1]

theorem turnsWithEdges_none (b : Build) (a : Bool) (n : Nat) :
    turnsWithEdges b a (List.replicate n 0) = List.replicate n .turn := by
  induction n with
  | zero => rfl
  | succ n ih => exact congrArg (Move.turn :: ·) ih

/-! ### Polls -/

/-- A sweep is launched: the poll's part that is not the flag (rule R143). -/
def sweepLaunched (s : State) : State := { s with phase := .sweeping, stepIndex := 0 }

/-- A poll offered to a serving full-sweep block tests and clears the flag (rules R93, R143). -/
theorem run_poll (hs : Serving s cfg) (hfull : cfg.sweepPolicy = .fullSweepPerTrigger) :
    run 2 (withInputs trig armed none (pollMoves ++ rest) s) =
      .next (withInputs trig false none rest (if armed then sweepLaunched s else s)) := by
  have hpresent : step (withInputs trig armed none (pollMoves ++ rest) s) =
      .next (withInputs trig armed (some (bareCommand 0x6#4)) (.turn :: rest) s) := rfl
  have hdec : decode s.build s.mode (.command (bareCommand 0x6#4)) = .ok .pollFull := by
    rw [mode_of_ready hs.1, hfull]
    rfl
  have hserve := step_served (s := withInputs trig armed (some (bareCommand 0x6#4)) (.turn :: rest) s) (.inl rfl) hs.2.2
    hs.2.1 rfl hdec
  have hexec := exec_pollFull (s := withInputs trig armed none rest s) hs hfull
  rw [run_succ_of_step hpresent, run_one, hserve]
  refine hexec.trans (congrArg Host.Outcome.next ?_)
  cases armed <;> rfl

/-- Polls of an unarmed block change nothing. -/
theorem run_polls_unarmed (hs : Serving s cfg) (hfull : cfg.sweepPolicy = .fullSweepPerTrigger) (n : Nat) :
    run (2 * n) (withInputs trig false none ((List.replicate n pollMoves).flatten ++ rest) s) =
      .next (withInputs trig false none rest s) := by
  induction n with
  | zero => rfl
  | succ n ih =>
    rw [List.replicate_succ, List.flatten_cons, List.append_assoc, Nat.mul_succ, Nat.add_comm]
    exact run_trans (run_poll hs hfull) ih

/-! ### From launch to end -/

theorem sweepStart_launched (hs : Serving s cfg) (hc : cfg.activeChannel = .A ∨ cfg.dualChannel = true)
    (hend : AtEndpoint cfg s.currentValue s.direction) : SweepStart (sweepLaunched s) cfg :=
  ⟨⟨hs.1, rfl, hs.2.2, (channelExists_iff _ _).2 hc⟩, rfl, hend⟩

theorem afterSweep_launched : afterSweep cfg (sweepLaunched s) = afterSweep cfg s := by
  simp only [afterSweep, sweepLaunched, sent, State.latchLine]

theorem afterSweep_serving (hr : ReadyWith s cfg) (hw : s.work = []) : Serving (afterSweep cfg s) cfg := ⟨hr, rfl, hw⟩

/-- A launched sweep with no edge among its turns. -/
theorem run_launched (hs : Serving s cfg) (hfull : cfg.sweepPolicy = .fullSweepPerTrigger)
    (hc : cfg.activeChannel = .A ∨ cfg.dualChannel = true) (hend : AtEndpoint cfg s.currentValue s.direction) :
    run (sweepLength cfg) (withInputs trig armed port (List.replicate (sweepLength cfg) .turn ++ rest) (sweepLaunched s)) =
      .next (withInputs trig armed port rest (afterSweep cfg s)) := by
  have hlen : (List.replicate (sweepLength cfg) 0).length = sweepLength cfg := List.length_replicate
  have hsum : (List.replicate (sweepLength cfg) 0).sum = 0 := by simp
  have hrun := run_turnsWithEdges (trig := trig) (armed := armed) (port := port) (rest := rest)
    (sweepStart_launched hs hc hend) hfull (List.replicate (sweepLength cfg) 0) (k := 0) (by rw [hlen]; omega)
  rw [turnsWithEdges_none, sweepState_zero, hlen, hsum, Nat.zero_add, armedAfter_zero, levelAfter_zero] at hrun
  rwa [sweepState_full, afterSweep_launched] at hrun

end

/-- A state under another script, in the form of this file. -/
theorem withScript_eq_withInputs {s : State} {trig armed : Bool} {port : Option Command} (ht : s.trigActive = trig)
    (ha : s.armed = armed) (hp : s.port = port) (script : List Move) :
    { s with script := script } = withInputs trig armed port script s := by
  subst ht ha hp
  rfl

/-- Settles O52 (rule R154): only the poll after the edge finds the flag set, and it clears it. -/
theorem oneEdgeOneSweep : Obligations.OneEdgeOneSweep := by
  intro s cfg before after hs hfull hc h0 hend harmed htrig hport
  rw [withScript_eq_withInputs htrig harmed hport]
  simp only [List.append_assoc]
  have hedge := (run_one _).trans (step_edge (s := s) (trig := false) (armed := false) (port := none)
    (rest := pollMoves ++ (List.replicate (sweepLength cfg) .turn ++ (List.replicate after pollMoves).flatten)) hs.1 hfull)
  have hpolls := run_polls_unarmed (trig := true) (rest := []) (afterSweep_serving hs.1 hs.2.2) hfull after
  rw [List.append_nil] at hpolls
  refine (run_trans (run_trans (run_trans (run_trans (run_polls_unarmed hs hfull before) hedge) (run_poll hs hfull))
    (run_launched hs hfull hc hend)) hpolls).trans ?_
  simp [withInputs, afterSweep, harmed, hport]

/-- Settles O53 (rules R146, R212): whatever the edges, the flag holds one bit, and the poll after the sweep reads it. -/
theorem edgesDuringASweepCoalesce : Obligations.EdgesDuringASweepCoalesce := by
  intro s cfg counts hmid hfull h0 hend hport hlen
  have hc : cfg.activeChannel = .A ∨ cfg.dualChannel = true := (channelExists_iff _ _).1 hmid.2.2.2
  have hserving := afterSweep_serving (cfg := cfg) hmid.1 hmid.2.2.1
  have hsweep (rest : List Move) := run_turnsWithEdges (trig := s.trigActive) (armed := s.armed) (port := none)
    (rest := rest) ⟨hmid, h0, hend⟩ hfull counts (k := 0) (by omega)
  simp only [sweepState_zero, Nat.zero_add, hlen, sweepState_full] at hsweep
  constructor
  · intro harmed
    have hset : armedAfter s.armed s.trigActive counts.sum = true := by simpa [armedAfter] using harmed
    rw [hset] at hsweep
    rw [withScript_eq_withInputs rfl rfl hport]
    simp only [List.append_assoc]
    have hlast := run_poll (trig := levelAfter s.trigActive counts.sum) (armed := false) (rest := [])
      (afterSweep_serving hserving.1 hserving.2.2) hfull
    rw [List.append_nil] at hlast
    refine (run_trans (run_trans (run_trans (hsweep _) (run_poll hserving hfull))
      (run_launched hserving hfull hc (farEndpoint_atEndpoint cfg s.direction))) hlast).trans ?_
    simp [withInputs, afterSweep, hport]
  · intro harmed hnone
    have hclear : armedAfter s.armed s.trigActive counts.sum = false := by simp [armedAfter, harmed, hnone]
    rw [hclear] at hsweep
    rw [withScript_eq_withInputs rfl rfl hport]
    have hlast := run_poll (trig := levelAfter s.trigActive counts.sum) (armed := false) (rest := []) hserving hfull
    rw [List.append_nil] at hlast
    refine (run_trans (hsweep pollMoves) hlast).trans ?_
    simp [withInputs, afterSweep, hport, harmed]

end Sys2Proof.Machine

/-! PROOFS. The triangle of armed polls (rules R147, R148, R150). -/

namespace Sys2Proof.Machine

open Sys2Proof Sys2Proof.Safety

/-- The two sides of the triangle. -/
theorem triangle_cases (mx k : Nat) :
    k % (2 * mx) ≤ mx ∧ triangle mx k = k % (2 * mx) ∨ mx < k % (2 * mx) ∧ triangle mx k = 2 * mx - k % (2 * mx) := by
  unfold triangle
  split
  · next h => exact .inl ⟨h, rfl⟩
  · next h => exact .inr ⟨Nat.lt_of_not_le h, rfl⟩

/-- One poll further in the period. -/
theorem succ_mod_cases {m : Nat} (hm : 0 < m) (k : Nat) :
    k % m + 1 < m ∧ (k + 1) % m = k % m + 1 ∨ k % m + 1 = m ∧ (k + 1) % m = 0 := by
  have hlt := Nat.mod_lt k hm
  rw [← Nat.mod_add_mod]
  rcases Nat.lt_or_eq_of_le (Nat.succ_le_of_lt hlt) with h | h
  · exact .inl ⟨h, Nat.mod_eq_of_lt h⟩
  · exact .inr ⟨h, by rw [show k % m + 1 = m from h, Nat.mod_self]⟩

/-- The counter is on the triangle after `k` polls, and the direction is the one it was reached in, ascending at the start. -/
structure OnTriangle (cfg : DacConfiguration) (k : Nat) (t : State) : Prop where
  value : t.currentValue.toNat = triangle (maxValue cfg.resolutionBits).toNat k
  direction : t.direction = .ascending ↔
    k = 0 ∨ 1 ≤ k % (2 * (maxValue cfg.resolutionBits).toNat) ∧
      k % (2 * (maxValue cfg.resolutionBits).toNat) ≤ (maxValue cfg.resolutionBits).toNat

section
variable {cfg : DacConfiguration} {s : State}

/-- One poll goes one further on the triangle (rules R147, R148). -/
theorem onTriangle_polled {k : Nat} {t : State} (h : OnTriangle cfg k t) : OnTriangle cfg (k + 1) (polled cfg t) := by
  obtain ⟨hv, hd⟩ := h
  have hmx := maxValue_pos cfg.resolutionBits
  have hside := triangle_cases (maxValue cfg.resolutionBits).toNat k
  have hside' := triangle_cases (maxValue cfg.resolutionBits).toNat (k + 1)
  have hnext := succ_mod_cases (m := 2 * (maxValue cfg.resolutionBits).toNat) (by omega) k
  have hk0 : k = 0 → k % (2 * (maxValue cfg.resolutionBits).toNat) = 0 := fun h => by rw [h, Nat.zero_mod]
  suffices hpair : (triangleNext cfg t).2.toNat = triangle (maxValue cfg.resolutionBits).toNat (k + 1) ∧
      ((triangleNext cfg t).1 = .ascending ↔ 1 ≤ (k + 1) % (2 * (maxValue cfg.resolutionBits).toNat) ∧
        (k + 1) % (2 * (maxValue cfg.resolutionBits).toNat) ≤ (maxValue cfg.resolutionBits).toNat) from
    ⟨hpair.1, hpair.2.trans (by simp)⟩
  unfold triangleNext
  cases hdir : t.direction with
  | ascending =>
    have hup := hd.1 hdir
    by_cases htop : t.currentValue = maxValue cfg.resolutionBits
    · have hval : t.currentValue.toNat = (maxValue cfg.resolutionBits).toNat := by rw [htop]
      simp only [triangleAdvance, htop, if_true, value_pred_toNat hmx, reduceCtorEq, false_iff]
      omega
    · have hval : t.currentValue.toNat ≠ (maxValue cfg.resolutionBits).toNat := fun he => htop (BitVec.eq_of_toNat_eq he)
      have hbelow : t.currentValue.toNat < (maxValue cfg.resolutionBits).toNat := by omega
      simp only [triangleAdvance, htop, if_false, value_succ_toNat hbelow, true_iff]
      omega
  | descending =>
    have hdown := mt hd.2 (by simp [hdir])
    by_cases hbottom : t.currentValue = 0
    · have hval : t.currentValue.toNat = 0 := by rw [hbottom]; rfl
      have hone : (1 : Value).toNat = 1 := rfl
      simp only [triangleAdvance, hbottom, if_true, true_iff, hone]
      omega
    · have hpos := value_pos hbottom
      simp only [triangleAdvance, hbottom, if_false, value_pred_toNat hpos, reduceCtorEq, false_iff]
      omega

theorem polled_serving (hs : Serving s cfg) : Serving (polled cfg s) cfg := hs

/-- Armed polls are as many moves of the counter. -/
theorem repeatExec_pollSingle (k : Nat) (hs : Serving s cfg) (hsingle : cfg.sweepPolicy = .singleStepPerPoll)
    (harmed : s.armed = true) (hc : channelExists cfg cfg.activeChannel = true) :
    repeatExec .pollSingle k s = .next ((polled cfg)^[k] s) := by
  induction k generalizing s with
  | zero => rfl
  | succ k ih =>
    simp only [repeatExec, exec_pollSingle hs hsingle harmed hc]
    exact ih (polled_serving hs) harmed

theorem iterate_polled_build (k : Nat) : ((polled cfg)^[k] s).build = s.build := by
  induction k with
  | zero => rfl
  | succ k ih => rw [Function.iterate_succ_apply']; exact ih

theorem iterate_polled_onTriangle (h : OnTriangle cfg 0 s) (k : Nat) : OnTriangle cfg k ((polled cfg)^[k] s) := by
  induction k with
  | zero => exact h
  | succ k ih => rw [Function.iterate_succ_apply']; exact onTriangle_polled ih

/-- The value a poll sends is the triangle's at its number or, in the other order, at the one before (rule R150). -/
theorem polledValue_onTriangle {k : Nat} {t : State} (h : OnTriangle cfg k t) :
    polledValue cfg t = BitVec.ofNat 12 (triangle (maxValue cfg.resolutionBits).toNat
      (if t.build.pollOrder = .advanceThenEmit then k + 1 else k)) := by
  unfold polledValue
  split
  · rw [← (onTriangle_polled h).value, BitVec.ofNat_toNat, BitVec.setWidth_eq]
    rfl
  · rw [← h.value, BitVec.ofNat_toNat, BitVec.setWidth_eq]

theorem iterate_polled_trace (h : OnTriangle cfg 0 s) (k : Nat) :
    ((polled cfg)^[k] s).trace = s.trace ++ (List.range k).flatMap fun j =>
      outputEvents cfg (BitVec.ofNat 12 (triangle (maxValue cfg.resolutionBits).toNat
        (if s.build.pollOrder = .advanceThenEmit then j + 1 else j))) := by
  induction k with
  | zero => exact (List.append_nil _).symm
  | succ k ih =>
    rw [Function.iterate_succ_apply', polled_trace, ih, polledValue_onTriangle (iterate_polled_onTriangle h k),
      iterate_polled_build, List.range_succ, List.flatMap_append, List.flatMap_singleton, List.append_assoc]

end

/-- Settles O50 (rules R148, R150). -/
theorem armedPollsDrawTheTriangle : Obligations.ArmedPollsDrawTheTriangle := by
  intro s cfg k hs hsingle hc harmed hv hd hk
  have hstart : OnTriangle cfg 0 s := ⟨by rw [hv, triangle, Nat.zero_mod, if_pos (Nat.zero_le _)]; rfl, by simp [hd]⟩
  obtain ⟨hvalue, hdirection⟩ := iterate_polled_onTriangle hstart k
  exact ⟨_, repeatExec_pollSingle k hs hsingle harmed ((channelExists_iff _ _).2 hc), hvalue,
    hdirection.trans (or_iff_right hk.ne'), iterate_polled_trace hstart k⟩

end Sys2Proof.Machine
